-- ==== Sys2Proof/Word.lean ====
section
/-! DEFINITION. The bit-vector types of the block: bytes, command words, indices. -/

namespace Sys2Proof

/-- One element of a byte sequence (00_scope.md R7, BYTE_W = 8). -/
abbrev Byte := BitVec 8

/-- A command word, the argument of `HostIssue` (R7, CMD_W = 32; 30_encoding.md R70). -/
abbrev Command := BitVec 32

/-- A 16-bit index into IBUF or OBUF (20_memory.md R50). -/
abbrev Index := BitVec 16

end Sys2Proof
end

