-- ==== Sys2Proof/Config.lean ====
section
/-! DEFINITION. The parameters of 00_scope.md R7 that a rule uses, and the one free value. -/

namespace Sys2Proof.Config

/-- R7, VAR_MIN: least legal length of DS64 and DU64. -/
def varMin : Nat := 1

/-- R7, VAR_MAX: greatest legal length of DS64 and DU64. -/
def varMax : Nat := 8

/-- R7, U16_LEN: the one legal length of DU16. -/
def u16Len : Nat := 2

/-- R7, U32_LEN: the one legal length of DU32. -/
def u32Len : Nat := 4

/-- R7, TXT_MIN: least legal length of DTXT. -/
def txtMin : Nat := 1

/-- R7, MAXLEN: greatest length a command can state, 2^LEN_W - 1. -/
def maxLen : Nat := 65535

/-- R7, PAD_BYTES: size of the padding buffer PAD. -/
def padBytes : Nat := 8

/-- R7, IBUF_SIZE: entries of the operand buffer. -/
def ibufSize : Nat := 65536

/-- The byte drawn when a command reads an IBUF entry that nothing has written since reset
(70_reset_and_hazards.md R161, 93_implementation_defined.md U2: a fresh draw per read). It has no body:
nothing is known of its values. `n` is the number of the draw. DESIGN CHOICE, safe, log 2. -/
opaque unwrittenByte (n : Nat) : Byte

end Sys2Proof.Config
end

