-- ==== Sys2Proof/Syntax.lean ====
section
/-! DEFINITION. The five instructions, one constructor per row of spec/opcode_table.json. -/

namespace Sys2Proof

/-- The block's instructions (00_scope.md R2, 30_encoding.md R74). `len` is the number of the assembler line
`DS64 n` (R79), the length of the byte sequence in bytes (R72); `Instr.WellFormed` bounds it (log 8). -/
inductive Instr where
  /-- DS64, decode signed 64 (41_varwidth64.md R110). -/
  | ds64 (len : Nat)
  /-- DU64, decode unsigned 64 (41_varwidth64.md R112). -/
  | du64 (len : Nat)
  /-- DU16, decode unsigned 16 (42_fixedwidth.md R120). -/
  | du16 (len : Nat)
  /-- DU32, decode unsigned 32 (42_fixedwidth.md R122). -/
  | du32 (len : Nat)
  /-- DTXT, decode UTF-16LE to ASCII (43_text.md R131). -/
  | dtxt (len : Nat)
  deriving DecidableEq, Repr

end Sys2Proof
end

