-- ==== Sys2Proof/WellFormed.lean ====
section
/-! DEFINITION. Which instructions a command word can state. -/

namespace Sys2Proof

/-- The length operand of an instruction (30_encoding.md R72). -/
def Instr.len : Instr → Nat
  | .ds64 len => len
  | .du64 len => len
  | .du16 len => len
  | .du32 len => len
  | .dtxt len => len

/-- R72, R79: LEN is a number 0 to 65535. A length outside the operation's legal lengths is well-formed (R74):
it ends in an error response, it is no ill-formed command. -/
abbrev Instr.WellFormed (i : Instr) : Prop := i.len ≤ Config.maxLen

end Sys2Proof
end

