-- ==== Sys2Proof/Decode.lean ====
section
/-! DEFINITION. The command decoder of 30_encoding.md, total on all 2^32 words (R77), and the encoder. -/

namespace Sys2Proof

/-- Why a command word encodes no operation (30_encoding.md R76). All three give the one response
IllegalCommand (60_exceptions.md R143); the reason is the decoder's own and is recorded nowhere. -/
inductive IllegalWord where
  /-- Z1, bits 7:3, is not zero (R73). -/
  | z1NotZero
  /-- Z2, bits 31:24, is not zero (R73). -/
  | z2NotZero
  /-- OP is 0, 6 or 7 (R74). -/
  | reservedOp
  deriving DecidableEq, Repr

/-- OP(c) = c[2:0] (R70, R75). -/
def opField (c : Command) : BitVec 3 := c.extractLsb' 0 3

/-- Z1 = c[7:3] (R70). -/
def z1Field (c : Command) : BitVec 5 := c.extractLsb' 3 5

/-- LEN(c) = c[23:8], unsigned, not scaled or biased (R70, R72, R75). -/
def lenField (c : Command) : BitVec 16 := c.extractLsb' 8 16

/-- Z2 = c[31:24] (R70). -/
def z2Field (c : Command) : BitVec 8 := c.extractLsb' 24 8

/-- The command decoder (R74, R75, R76): an instruction, or the name of what makes the word illegal. -/
def decode (c : Command) : Except IllegalWord Instr :=
  if z1Field c ≠ 0 then .error .z1NotZero
  else if z2Field c ≠ 0 then .error .z2NotZero
  else match (opField c).toNat with
    | 1 => .ok (.ds64 (lenField c).toNat)
    | 2 => .ok (.du64 (lenField c).toNat)
    | 3 => .ok (.du16 (lenField c).toNat)
    | 4 => .ok (.du32 (lenField c).toNat)
    | 5 => .ok (.dtxt (lenField c).toNat)
    | _ => .error .reservedOp

/-- The fixed name of the host: what the decoder reads from a word `w` of which the table gives `nbits` bits.
A command is one 32-bit argument of `HostIssue`, not stored in any memory, so there is no byte order to lay it
out in (20_memory.md R58, log 7). -/
def decodeTableWord (nbits w : Nat) : Option Instr :=
  (decode (BitVec.ofNat 32 (w % 2 ^ nbits))).toOption

/-- The OP code of each instruction (R74, D6). -/
def Instr.opBits : Instr → BitVec 3
  | .ds64 _ => 1
  | .du64 _ => 2
  | .du16 _ => 3
  | .du32 _ => 4
  | .dtxt _ => 5

/-- The command word of an instruction: Z2, LEN, Z1, OP from bit 31 down (R70). -/
def encode (i : Instr) : Command :=
  0#8 ++ BitVec.ofNat 16 i.len ++ 0#5 ++ i.opBits

end Sys2Proof
end

