-- ==== Sys2Proof/Machine/State.lean ====
section
/-! DEFINITION. The state of one instance of the block, its host's actions, and the reasons to stop. -/

namespace Sys2Proof.Machine

/-- The machine never stops with a fault: every host action completes (40_datapath_units.md R101,
60_exceptions.md R146, 20_memory.md R52). So no reason exists, and nothing raises one. -/
inductive Fault where
  deriving DecidableEq, Repr

/-- The reasons to give a step no meaning. -/
inductive Refusal where
  /-- An arm of `exec` whose instruction has no meaning yet. Raised by no arm: all five rows of the opcode table
  have their meaning. Safe: it would only stop a run. -/
  | notModelled (mnemonic : String)
  deriving DecidableEq, Repr

/-- The error kinds of STATUS.KIND (10_state.md R30, 60_exceptions.md R140). -/
inductive Kind where
  /-- The command succeeded; also the reset value. -/
  | none
  /-- DS64, DU64, DU16, DU32 with a length outside the legal range (R142). -/
  | invalidLength
  /-- DTXT with length 0 (R144). -/
  | emptyInput
  /-- A command word that encodes no operation (R143). -/
  | illegalCommand
  deriving DecidableEq, Repr

/-- The five operations (30_encoding.md R74). -/
inductive Op where
  | ds64
  | du64
  | du16
  | du32
  | dtxt
  deriving DecidableEq, Repr

/-- The response registers that `HostReadReg` names (00_scope.md R12, 10_state.md R39). -/
inductive Reg where
  | value
  | status
  | errinfo
  deriving DecidableEq, Repr

/-- What can happen to the block: the host's four actions (00_scope.md R12) and reset
(70_reset_and_hazards.md R160, log 5). -/
inductive HostAction where
  /-- `HostWriteIBUF(i, b)` (20_memory.md R52). -/
  | writeIbuf (i : Index) (b : Byte)
  /-- `HostIssue(c)` (40_datapath_units.md R100). -/
  | issue (c : Command)
  /-- `HostReadReg(r)` (10_state.md R39). -/
  | readReg (r : Reg)
  /-- `HostReadOBUF(i)` (10_state.md R37). -/
  | readObuf (i : Index)
  /-- Reset (70_reset_and_hazards.md R160). -/
  | reset
  deriving DecidableEq, Repr

/-- What a host read returned: a whole register (10_state.md R39) or one byte of the text output at an index
(R37). -/
inductive Reading where
  | value (v : BitVec 64)
  | status (v : BitVec 32)
  | errinfo (v : BitVec 64)
  | obuf (i : Index) (b : Byte)
  deriving DecidableEq, Repr

/-- IBUF as (index, byte) pairs with indices strictly rising and below 65536 (`Memory.wf`). An entry that is not
listed has not been written since reset: it has no value of its own (70_reset_and_hazards.md R161, log 2). -/
abbrev Memory := List Host.Cell

/-- A response (40_datapath_units.md R99); lengths are counts, narrowed when the registers are written. -/
structure Response where
  kind : Kind
  /-- The function identifier, bits 2:0 of the command word (10_state.md R31). -/
  fn : BitVec 3
  received : Nat
  lo : Nat
  hi : Nat
  value : BitVec 64
  text : List Byte
  deriving DecidableEq, Repr

/-- The complete state of one instance (10_state.md R20), then the model's own three fields. -/
structure State where
  /-- IBUF, the operand buffer (R23). -/
  ibuf : Memory
  /-- VALUE (R26). -/
  value : BitVec 64
  /-- STATUS (R28). -/
  status : BitVec 32
  /-- ERRINFO (R34). -/
  errinfo : BitVec 64
  /-- TEXT, the text output (R36). -/
  text : List Byte
  /-- The model's own: the actions the host has still to perform, oldest first. DESIGN CHOICE, safe, log 1. -/
  pending : List HostAction
  /-- The model's own: what host reads returned so far, oldest first. DESIGN CHOICE, safe, log 4. -/
  reads : List Reading
  /-- The model's own: how many operand entries have been read, the number of the next free byte
  (`Config.unwrittenByte`). DESIGN CHOICE, safe, log 2. -/
  draws : Nat
  deriving DecidableEq, Repr

/-- The machine right after reset (10_state.md R41): zero registers, empty TEXT, IBUF unspecified (nothing listed,
log 2). The last three fields are the model's own (log 9). -/
def State.reset : State where
  ibuf := []
  value := 0
  status := 0
  errinfo := 0
  text := []
  pending := []
  reads := []
  draws := 0

end Sys2Proof.Machine
end

