-- ==== Sys2Proof/Machine/Flags.lean ====
section
/-! DEFINITION. The bit layouts of STATUS and ERRINFO: writing them whole and reading their fields. -/

namespace Sys2Proof.Machine

/-- The code STATUS.KIND takes (10_state.md R30, 60_exceptions.md R140). -/
def Kind.code : Kind → BitVec 2
  | .none => 0
  | .invalidLength => 1
  | .emptyInput => 2
  | .illegalCommand => 3

/-- The function identifier of each operation, its OP code (10_state.md R31, 30_encoding.md R74). -/
def Op.code : Op → BitVec 3
  | .ds64 => 1
  | .du64 => 2
  | .du16 => 3
  | .du32 => 4
  | .dtxt => 5

/-- STATUS after a command (10_state.md R28, 40_datapath_units.md R99): from bit 31 down, eight reserved zeros,
OLEN, two reserved zeros, FN, KIND, and DONE = 1. -/
def statusWord (kind : Kind) (fn : BitVec 3) (olen : Nat) : BitVec 32 :=
  0#8 ++ BitVec.ofNat 16 olen ++ 0#2 ++ fn ++ kind.code ++ 1#1

/-- ERRINFO after a command (10_state.md R34): sixteen reserved zeros, EXP_HI, EXP_LO, RECEIVED. -/
def errinfoWord (received lo hi : Nat) : BitVec 64 :=
  0#16 ++ BitVec.ofNat 16 hi ++ BitVec.ofNat 16 lo ++ BitVec.ofNat 16 received

/-- STATUS.DONE, bit 0 (R28, R29). -/
def State.done (s : State) : Bool := s.status.getLsbD 0

/-- STATUS.KIND, bits 2:1 (R28, R30). -/
def State.kind (s : State) : BitVec 2 := s.status.extractLsb' 1 2

/-- STATUS.FN, bits 5:3 (R28, R31). -/
def State.fn (s : State) : BitVec 3 := s.status.extractLsb' 3 3

/-- STATUS.OLEN, bits 23:8, the length of TEXT (R28, R32). -/
def State.olen (s : State) : Nat := (s.status.extractLsb' 8 16).toNat

/-- ERRINFO.RECEIVED, bits 15:0 (R34, R35). -/
def State.received (s : State) : Nat := (s.errinfo.extractLsb' 0 16).toNat

/-- ERRINFO.EXP_LO, bits 31:16 (R34, R35). -/
def State.expLo (s : State) : Nat := (s.errinfo.extractLsb' 16 16).toNat

/-- ERRINFO.EXP_HI, bits 47:32 (R34, R35). -/
def State.expHi (s : State) : Nat := (s.errinfo.extractLsb' 32 16).toNat

end Sys2Proof.Machine
end

