-- ==== Sys2Proof/Machine/Ops.lean ====
section
/-! DEFINITION. The shared operations over IBUF and the response registers, and the length validator FWV. -/

namespace Sys2Proof.Machine

/-- The byte the host last wrote at an index since reset, if it wrote one (20_memory.md R52, R62). -/
def Memory.read : Memory → Nat → Option Byte
  | [], _ => none
  | (a, b) :: m, i => if a = i then some b else Memory.read m i

/-- `IBUF[i] <- b`, keeping the list sorted (20_memory.md R52). -/
def Memory.write : Memory → Nat → Byte → Memory
  | [], i, b => [(i, b)]
  | (a, x) :: m, i, b =>
    if i < a then (i, b) :: (a, x) :: m
    else if i = a then (i, b) :: m
    else (a, x) :: Memory.write m i b

/-- Every listed index is at least `lo`, rising strictly, and below 65536 (20_memory.md R50). -/
def Memory.sortedFrom (lo : Nat) : Memory → Bool
  | [] => true
  | (a, _) :: m => decide (lo ≤ a) && decide (a < Config.ibufSize) && Memory.sortedFrom (a + 1) m

/-- The canonical form of IBUF: equal contents are equal lists. An unwritten entry has no value, so no listed
entry equals what an unlisted one reads as (log 2). -/
def Memory.wf (m : Memory) : Bool := Memory.sortedFrom 0 m

/-- `Respond` (40_datapath_units.md R99): every command writes the whole of STATUS, ERRINFO, VALUE and TEXT, and
nothing of IBUF (10_state.md R24). -/
def respond (r : Response) (s : State) : State :=
  { s with
    status := statusWord r.kind r.fn r.text.length
    errinfo := errinfoWord r.received r.lo r.hi
    value := r.value
    text := r.text }

/-- `raise Kind(fn, received, lo, hi)` (R99; 60_exceptions.md R141): the error response, with the zero and empty
default output. It is no trap: nothing is saved and no control is transferred (60_exceptions.md R146). -/
def raiseError (kind : Kind) (fn : BitVec 3) (received lo hi : Nat) (s : State) : State :=
  respond { kind, fn, received, lo, hi, value := 0, text := [] } s

/-- A row of FWV's table (40_datapath_units.md R91): the legal range and the error kind outside it. -/
structure LengthRule where
  lo : Nat
  hi : Nat
  kind : Kind
  deriving DecidableEq, Repr

/-- FWV's table (R91). -/
def Op.lengthRule : Op → LengthRule
  | .ds64 => ⟨Config.varMin, Config.varMax, .invalidLength⟩
  | .du64 => ⟨Config.varMin, Config.varMax, .invalidLength⟩
  | .du16 => ⟨Config.u16Len, Config.u16Len, .invalidLength⟩
  | .du32 => ⟨Config.u32Len, Config.u32Len, .invalidLength⟩
  | .dtxt => ⟨Config.txtMin, Config.maxLen, .emptyInput⟩

/-- FWV, the fixed_width_validator (R90, R91, R92): whether a length is legal for an operation. It reads no
operand byte (R93). -/
def fwv (op : Op) (len : Nat) : Bool :=
  decide (op.lengthRule.lo ≤ len) && decide (len ≤ op.lengthRule.hi)

end Sys2Proof.Machine
end

