-- ==== Sys2Proof/Machine/Operands.lean ====
section
/-! DEFINITION. Reading the operand, and the datapath units SXU, LED and ZBS. -/

namespace Sys2Proof.Machine

/-- What a command that reads IBUF[i] gets: the byte written there, or, where nothing has been written since
reset, the free byte of this read (93_implementation_defined.md U2, log 2). -/
def operandByte (s : State) (i : Nat) : Byte :=
  (s.ibuf.read i).getD (Config.unwrittenByte (s.draws + i))

/-- `MemRead(IBUF, 0, len)`, the byte sequence B (00_scope.md R11, 20_memory.md R53). -/
def operand (s : State) (len : Nat) : List Byte :=
  (List.range len).map (operandByte s)

/-- The state after `len` entries have been read: the next read draws fresh free bytes (U2, log 2). No
architectural state changes by a read (20_memory.md R54). -/
def State.afterRead (s : State) (len : Nat) : State :=
  { s with draws := s.draws + len }

/-- The little-endian value of a byte sequence (00_scope.md R9, 20_memory.md R55). -/
def le : List Byte → Nat
  | [] => 0
  | b :: bs => b.toNat + 256 * le bs

/-- The most significant supplied byte, B[n-1] (40_datapath_units.md R94). -/
def msb (bs : List Byte) : Byte := bs.getLastD 0

/-- SXU, the sign_extension_unit (R94, R95): the filler byte. -/
def sxu (op : Op) (top : Byte) : Byte :=
  if op = .ds64 ∧ top.getLsbD 7 = true then 0xFF else 0x00

/-- The padding buffer PAD (R96): B[i] where the operand supplies it, the filler elsewhere. -/
def pad (bs : List Byte) (filler : Byte) : List Byte :=
  (List.range Config.padBytes).map fun i => bs.getD i filler

/-- LED64 (R96): PAD read as one 64-bit little-endian word. -/
def led64 (bs : List Byte) (filler : Byte) : BitVec 64 := BitVec.ofNat 64 (le (pad bs filler))

/-- LED16 (R98): two bytes as an unsigned little-endian number. -/
def led16 (bs : List Byte) : BitVec 16 := BitVec.ofNat 16 (le bs)

/-- LED32 (R98): four bytes as an unsigned little-endian number. -/
def led32 (bs : List Byte) : BitVec 32 := BitVec.ofNat 32 (le bs)

/-- ZBS, the zero-byte stripper (43_text.md R130). -/
def strip0 : List Byte → List Byte
  | [] => []
  | b :: rest => if b = 0x00 then strip0 rest else b :: strip0 rest

end Sys2Proof.Machine
end

