-- ==== Sys2Proof/Machine/Command.lean ====
section
/-! DEFINITION. What every command runs (40_datapath_units.md R100): validate, then read, then respond. -/

namespace Sys2Proof.Machine

/-- Steps 2 to 4 of `Exec` (R100) for a legal word: the length check before any byte is read (R93,
60_exceptions.md R148); then the one read of IBUF; then the response, whose VALUE and TEXT `finish` computes from
the operand. -/
def command (op : Op) (len : Nat) (finish : List Byte → BitVec 64 × List Byte) (s : State) : State :=
  if fwv op len then
    respond
      { kind := .none
        fn := op.code
        received := len
        lo := op.lengthRule.lo
        hi := op.lengthRule.hi
        value := (finish (operand s len)).1
        text := (finish (operand s len)).2 }
      (s.afterRead len)
  else
    raiseError op.lengthRule.kind op.code len op.lengthRule.lo op.lengthRule.hi s

/-- Step 1 of `Exec` (R100) for an illegal word: the IllegalCommand response with plain copies of bits 2:0 and
23:8, reading no operand (30_encoding.md R76, 60_exceptions.md R143). -/
def illegalCommand (fn : BitVec 3) (received : Nat) (s : State) : State :=
  raiseError .illegalCommand fn received 0 0 s

end Sys2Proof.Machine
end

