-- ==== Sys2Proof/Machine/FixedWidth.lean ====
section
/-! DEFINITION. The fixed-width decoders DU16 and DU32 (42_fixedwidth.md). -/

namespace Sys2Proof.Machine

/-- DU16, decode unsigned 16, zero-extended into VALUE (42_fixedwidth.md R120, 10_state.md R27). -/
def execDu16 (len : Nat) (s : State) : Host.Outcome State Fault Refusal :=
  .next (command .du16 len (fun bs => ((led16 bs).setWidth 64, [])) s)

/-- DU32, decode unsigned 32, zero-extended into VALUE (42_fixedwidth.md R122, 10_state.md R27). -/
def execDu32 (len : Nat) (s : State) : Host.Outcome State Fault Refusal :=
  .next (command .du32 len (fun bs => ((led32 bs).setWidth 64, [])) s)

end Sys2Proof.Machine
end

