-- ==== Sys2Proof/Machine/Text.lean ====
section
/-! DEFINITION. The text decoder DTXT (43_text.md). -/

namespace Sys2Proof.Machine

/-- DTXT, decode UTF-16LE to ASCII: a byte-level strip of every 0x00, VALUE = 0 (43_text.md R131, R132). -/
def execDtxt (len : Nat) (s : State) : Host.Outcome State Fault Refusal :=
  .next (command .dtxt len (fun bs => (0, strip0 bs)) s)

end Sys2Proof.Machine
end

