-- ==== Sys2Proof/Machine/VarWidth.lean ====
section
/-! DEFINITION. The variable-width decoders DS64 and DU64 (41_varwidth64.md). -/

namespace Sys2Proof.Machine

/-- The 64-bit word DS64 makes of its operand: filler from SXU, then LED64 (R110, R94, R96). -/
def ds64Value (bs : List Byte) : BitVec 64 := led64 bs (sxu .ds64 (msb bs))

/-- The 64-bit word DU64 makes of its operand: LED64 with filler 0x00 (R112, R95, R96). -/
def du64Value (bs : List Byte) : BitVec 64 := led64 bs 0x00

/-- DS64, decode signed 64 (41_varwidth64.md R110). -/
def execDs64 (len : Nat) (s : State) : Host.Outcome State Fault Refusal :=
  .next (command .ds64 len (fun bs => (ds64Value bs, [])) s)

/-- DU64, decode unsigned 64 (41_varwidth64.md R112). -/
def execDu64 (len : Nat) (s : State) : Host.Outcome State Fault Refusal :=
  .next (command .du64 len (fun bs => (du64Value bs, [])) s)

end Sys2Proof.Machine
end

