-- ==== Sys2Proof/Machine/Dispatch.lean ====
section
/-! DEFINITION. Each instruction's meaning, one arm per row of spec/opcode_table.json. -/

namespace Sys2Proof.Machine

-- R100, step 4: one direct call per operation
def exec (i : Instr) (s : State) : Host.Outcome State Fault Refusal :=
  match i with
  | .ds64 len => Sys2Proof.Machine.execDs64 len s
  | .du64 len => Sys2Proof.Machine.execDu64 len s
  | .du16 len => Sys2Proof.Machine.execDu16 len s
  | .du32 len => Sys2Proof.Machine.execDu32 len s
  | .dtxt len => Sys2Proof.Machine.execDtxt len s

end Sys2Proof.Machine
end

