-- ==== Sys2Proof/Machine/HostActions.lean ====
section
/-! DEFINITION. The host's four actions (00_scope.md R12) and reset (70_reset_and_hazards.md R160). -/

namespace Sys2Proof.Machine

/-- `HostWriteIBUF(i, b)` (20_memory.md R52): one entry of IBUF and nothing else. -/
def hostWriteIbuf (i : Index) (b : Byte) (s : State) : State :=
  { s with ibuf := s.ibuf.write i.toNat b }

/-- `HostIssue(c)` (40_datapath_units.md R100): decode first, then the instruction; an illegal word has the
IllegalCommand response (60_exceptions.md R148, log 6). -/
def hostIssue (c : Command) (s : State) : Host.Outcome State Fault Refusal :=
  match decode c with
  | .ok i => exec i s
  | .error _ => .next (illegalCommand (opField c) (lenField c).toNat s)

/-- What `HostReadReg(r)` returns: the whole register (10_state.md R39). -/
def regReading (r : Reg) (s : State) : Reading :=
  match r with
  | .value => .value s.value
  | .status => .status s.status
  | .errinfo => .errinfo s.errinfo

/-- What `HostReadOBUF(i)` returns: TEXT[i] below OLEN, 0x00 at and beyond it (10_state.md R37). -/
def obufByte (s : State) (i : Nat) : Byte :=
  if i < s.olen then s.text.getD i 0x00 else 0x00

/-- `HostReadReg(r)` changes nothing of the block (R39); the host keeps what it read (log 4). -/
def hostReadReg (r : Reg) (s : State) : State :=
  { s with reads := s.reads ++ [regReading r s] }

/-- `HostReadOBUF(i)` changes nothing of the block (R37); the host keeps what it read (log 4). -/
def hostReadObuf (i : Index) (s : State) : State :=
  { s with reads := s.reads ++ [.obuf i (obufByte s i.toNat)] }

/-- Reset (R160, R161): the response registers as 10_state.md R41 says, every IBUF entry unspecified again. The
host's own fields stay, and later reads draw fresh free bytes (log 5). -/
def hostReset (s : State) : State :=
  { s with ibuf := [], value := 0, status := 0, errinfo := 0, text := [] }

/-- One host action, one atomic step (00_scope.md R13). -/
def perform (a : HostAction) (s : State) : Host.Outcome State Fault Refusal :=
  match a with
  | .writeIbuf i b => .next (hostWriteIbuf i b s)
  | .issue c => hostIssue c s
  | .readReg r => .next (hostReadReg r s)
  | .readObuf i => .next (hostReadObuf i s)
  | .reset => .next (hostReset s)

end Sys2Proof.Machine
end

