-- ==== Sys2Proof/Machine/Step.lean ====
section
/-! DEFINITION. One step of the machine: the next action of the host. -/

namespace Sys2Proof.Machine

/-- One step: the block has none of its own, so a step is the host's next action, in the host's order
(00_scope.md R13, R16; 20_memory.md R62; log 1). An idle host changes nothing (70_reset_and_hazards.md R173,
log 3). -/
def step (s : State) : Host.Outcome State Fault Refusal :=
  match s.pending with
  | [] => .next s
  | a :: rest => perform a { s with pending := rest }

/-- The fixed name of the host: `s` whose host issues the command word `w` next. Commands come from the host, not
from a memory (10_state.md R21), so the word goes to the head of the host's queue (log 1, log 7). -/
def State.withFetchWord (s : State) (nbits w : Nat) : State :=
  { s with pending := .issue (BitVec.ofNat 32 (w % 2 ^ nbits)) :: s.pending }

end Sys2Proof.Machine
end

