-- ==== Sys2Proof/Machine/Script.lean ====
section
/-! DEFINITION. The assembler lines and pseudo-instructions of 30_encoding.md, expanded to host actions. -/

namespace Sys2Proof.Machine

/-- The instruction of an operation and a length, `DS64 n` and so on (30_encoding.md R79). -/
def Op.instr : Op → Nat → Instr
  | .ds64, n => .ds64 n
  | .du64, n => .du64 n
  | .du16, n => .du16 n
  | .du32, n => .du32 n
  | .dtxt, n => .dtxt n

/-- A line of the assembler syntax (R79) or a pseudo-instruction (R80). -/
inductive Line where
  /-- `DS64 n`, `DU64 n`, `DU16 n`, `DU32 n`, `DTXT n`, n a number 0 to 65535. -/
  | cmd (op : Op) (n : Nat)
  /-- `RAW w`, the only way to write an illegal command. -/
  | raw (w : Command)
  /-- `WB i, b`. -/
  | wb (i : Index) (b : Byte)
  /-- `RDV`, `RDS`, `RDE`. -/
  | rd (r : Reg)
  /-- `RDO i`. -/
  | rdo (i : Index)
  /-- `LOAD b0 b1 …`. -/
  | load (bs : List Byte)
  /-- `DS64 [b0 …]` and the same with the other mnemonics: the document's function call on a byte slice. -/
  | call (op : Op) (bs : List Byte)
  /-- `RDT`. -/
  | rdt
  deriving DecidableEq, Repr

/-- `WB k, b0 ; WB k+1, b1 ; …` (R80, LOAD). -/
def loadFrom : Nat → List Byte → List HostAction
  | _, [] => []
  | k, b :: bs => .writeIbuf (BitVec.ofNat 16 k) b :: loadFrom (k + 1) bs

/-- `LOAD bs`, then the command with n = the number of bytes (R80). -/
def callActions (op : Op) (bs : List Byte) : List HostAction :=
  loadFrom 0 bs ++ [.issue (encode (op.instr bs.length))]

/-- The host actions of a line (R79, R80). `RDT` takes OLEN from the STATUS it reads, so its expansion is that of
the state in which it is reached (log 11). -/
def Line.actions (l : Line) (s : State) : List HostAction :=
  match l with
  | .cmd op n => [.issue (encode (op.instr n))]
  | .raw w => [.issue w]
  | .wb i b => [.writeIbuf i b]
  | .rd r => [.readReg r]
  | .rdo i => [.readObuf i]
  | .load bs => loadFrom 0 bs
  | .call op bs => callActions op bs
  | .rdt => .readReg .status :: (List.range s.olen).map fun i => .readObuf (BitVec.ofNat 16 i)

end Sys2Proof.Machine
end

