-- ==== Sys2Proof/Safety.lean ====
section
/-! DEFINITION. What counts as a safe run, and the terms the statements use: the spec's own wording of a response,
of its invariants, of its procedure Exec and of the document's five functions, written independently of the
machine. -/

namespace Sys2Proof.Machine

/-- Which words encode an operation, as numbers: `legal(c)` of 30_encoding.md R75. -/
abbrev LegalWord (c : Command) : Prop :=
  c.toNat / 2 ^ 3 % 2 ^ 5 = 0 ∧ c.toNat / 2 ^ 24 = 0 ∧ 1 ≤ c.toNat % 2 ^ 3 ∧ c.toNat % 2 ^ 3 ≤ 5

/-- The OP and LEN fields of a word, as numbers (R75). -/
abbrev wordOp (c : Command) : Nat := c.toNat % 2 ^ 3
abbrev wordLen (c : Command) : Nat := c.toNat / 2 ^ 8 % 2 ^ 16

/-- The least and the greatest legal length of the operation with code `op` (40_datapath_units.md R91), 0 and 0
where no operation has that code (10_state.md R35). -/
def legalRange (op : Nat) : Nat × Nat :=
  match op with
  | 1 => (1, 8)
  | 2 => (1, 8)
  | 3 => (2, 2)
  | 4 => (4, 4)
  | 5 => (1, 65535)
  | _ => (0, 0)

/-- The response registers hold a response (R99), with STATUS and ERRINFO as the whole numbers that their layouts
make (10_state.md R28, R34): DONE = 1 and every reserved bit 0. -/
def HoldsResponse (t : State) (kind fn received lo hi : Nat) (value : BitVec 64) (text : List Byte) : Prop :=
  t.status.toNat = 1 + 2 * kind + 8 * fn + 256 * text.length ∧
  t.errinfo.toNat = received + 2 ^ 16 * lo + 2 ^ 32 * hi ∧
  t.value = value ∧ t.text = text

/-- The response registers of two states agree. -/
def SameResponse (s t : State) : Prop :=
  s.status = t.status ∧ s.errinfo = t.errinfo ∧ s.value = t.value ∧ s.text = t.text

/-- What no command touches: IBUF (10_state.md R24) and the host's own fields. -/
def SameOutside (s t : State) : Prop :=
  t.ibuf = s.ibuf ∧ t.pending = s.pending ∧ t.reads = s.reads

/-- Every operand entry of a command of length `len` has been written since reset (70_reset_and_hazards.md
R163). -/
def OperandWritten (s : State) (len : Nat) : Prop :=
  ∀ i, i < len → (s.ibuf.read i).isSome = true

/-- A safe step: the machine goes on (40_datapath_units.md R101). -/
def SafeStep (s : State) : Prop := ∃ t, step s = .next t

/-- The ten invariants of 10_state.md R42, then the length of TEXT (R36) and IBUF's canonical form. -/
structure State.Inv (s : State) : Prop where
  reserved : s.status.extractLsb' 6 2 = 0 ∧ s.status.extractLsb' 24 8 = 0 ∧ s.errinfo.extractLsb' 48 16 = 0
  beforeFirst : s.done = false → s.value = 0 ∧ s.status = 0 ∧ s.errinfo = 0 ∧ s.text = []
  errorIsZero : s.kind ≠ 0 → s.value = 0 ∧ s.olen = 0
  invalidLength : s.kind = 1 →
    (s.fn = 1 ∨ s.fn = 2 ∨ s.fn = 3 ∨ s.fn = 4) ∧ (s.received < s.expLo ∨ s.expHi < s.received)
  emptyInput : s.kind = 2 → s.fn = 5 ∧ s.received = 0 ∧ s.expLo = 1 ∧ s.expHi = 65535
  illegalCommand : s.kind = 3 → s.expLo = 0 ∧ s.expHi = 0
  success : s.done = true → s.kind = 0 →
    (s.fn = 1 ∨ s.fn = 2 ∨ s.fn = 3 ∨ s.fn = 4 ∨ s.fn = 5) ∧ s.expLo ≤ s.received ∧ s.received ≤ s.expHi
  outputs : (s.fn ≠ 5 → s.olen = 0) ∧ (s.fn = 5 → s.value = 0)
  fixedWidth : (s.fn = 3 → s.value.toNat < 2 ^ 16) ∧ (s.fn = 4 → s.value.toNat < 2 ^ 32)
  textBytes : s.olen ≤ s.received ∧ ∀ b ∈ s.text, b ≠ 0
  textLength : s.text.length = s.olen
  ibufWf : s.ibuf.wf = true

/-- The states reached from reset by host actions, in any order and number (10_state.md R42). -/
inductive Reachable : State → Prop where
  | reset : Reachable State.reset
  | act (a : HostAction) (s t : State) : Reachable s → perform a s = .next t → Reachable t

/-- What the document's function of each operation answers for a byte slice: the error kind, the integer and the
text (00_scope.md R2; results R110, R112, R120, R122, R131; errors R142, R144). -/
def documentResult (op : Op) (bs : List Byte) : Nat × BitVec 64 × List Byte :=
  match op with
  | .ds64 =>
    if 1 ≤ bs.length ∧ bs.length ≤ 8 then (0, (BitVec.ofNat (8 * bs.length) (le bs)).signExtend 64, [])
    else (1, 0, [])
  | .du64 => if 1 ≤ bs.length ∧ bs.length ≤ 8 then (0, BitVec.ofNat 64 (le bs), []) else (1, 0, [])
  | .du16 => if bs.length = 2 then (0, BitVec.ofNat 64 (le bs), []) else (1, 0, [])
  | .du32 => if bs.length = 4 then (0, BitVec.ofNat 64 (le bs), []) else (1, 0, [])
  | .dtxt => if bs.length = 0 then (2, 0, []) else (0, 0, bs.filter (fun b => b != 0))

/-- Writing the whole response (R99), the registers as numbers. -/
def answer (kind fn received lo hi : Nat) (value : Nat) (text : List Byte) (s : State) : State :=
  { s with
    status := BitVec.ofNat 32 (1 + 2 * kind + 8 * fn + 256 * text.length)
    errinfo := BitVec.ofNat 64 (received + 2 ^ 16 * lo + 2 ^ 32 * hi)
    value := BitVec.ofNat 64 value
    text := text }

/-- The procedure `Exec(c)` of 40_datapath_units.md R100, line by line, over numbers. The model's own
count of free bytes is left as it is: this is the spec's procedure, not the machine. -/
def procedureExec (c : Command) (s : State) : State :=
  let op := wordOp c
  let len := wordLen c
  let lo := (legalRange op).1
  let hi := (legalRange op).2
  if c.toNat / 2 ^ 3 % 2 ^ 5 ≠ 0 ∨ c.toNat / 2 ^ 24 ≠ 0 ∨ op = 0 ∨ op = 6 ∨ op = 7 then
    answer 3 op len 0 0 0 [] s
  else if len < lo ∨ hi < len then
    answer (if op = 5 then 2 else 1) op len lo hi 0 [] s
  else
    let bs := operand s len
    if op = 1 then
      let filler : Byte := if 128 ≤ (bs.getD (len - 1) 0).toNat then 0xFF else 0x00
      answer 0 1 len 1 8 (le (bs ++ List.replicate (8 - len) filler)) [] s
    else if op = 2 then answer 0 2 len 1 8 (le (bs ++ List.replicate (8 - len) 0x00)) [] s
    else if op = 3 then answer 0 3 len 2 2 ((bs.getD 0 0).toNat + (bs.getD 1 0).toNat * 2 ^ 8) [] s
    else if op = 4 then
      answer 0 4 len 4 4
        ((bs.getD 0 0).toNat + (bs.getD 1 0).toNat * 2 ^ 8 + (bs.getD 2 0).toNat * 2 ^ 16 +
          (bs.getD 3 0).toNat * 2 ^ 24) [] s
    else answer 0 5 len 1 65535 0 (bs.filter (fun b => b != 0)) s

end Sys2Proof.Machine
end

