-- ==== Sys2Proof/Certificates/Slice0/Obligations.lean ====
section
/-! DEFINITION. The statements about the block, from the spec's numbered rules. -/

open Sys2Proof Sys2Proof.Machine

/-! ### Encoding -/

/-- Decoding the command word of a well-formed instruction gives the instruction back, for every length that LEN
can state (30_encoding.md R70, R72, R74). -/
def Obligations.DecodeOfEncodeIsTheInstruction : Prop :=
  ∀ i : Instr, i.WellFormed → decode (encode i) = .ok i

/-- A word that decodes is the one word of its instruction, and the instruction is well-formed: each word has one
meaning (30_encoding.md R77). -/
def Obligations.EncodeOfDecodedIsTheWord : Prop :=
  ∀ (c : Command) (i : Instr), decode c = .ok i → i.WellFormed ∧ encode i = c

/-- The match-and-mask form of the five operations, and the illegal words as those of which `legal(c)` is false
(30_encoding.md R75). -/
def Obligations.WordsDecodeExactlyByMaskAndMatch : Prop :=
  ∀ (c : Command) (n : Nat),
    (decode c = .ok (.ds64 n) ↔ c &&& 0xFF0000FF#32 = 0x00000001#32 ∧ n = wordLen c) ∧
    (decode c = .ok (.du64 n) ↔ c &&& 0xFF0000FF#32 = 0x00000002#32 ∧ n = wordLen c) ∧
    (decode c = .ok (.du16 n) ↔ c &&& 0xFF0000FF#32 = 0x00000003#32 ∧ n = wordLen c) ∧
    (decode c = .ok (.du32 n) ↔ c &&& 0xFF0000FF#32 = 0x00000004#32 ∧ n = wordLen c) ∧
    (decode c = .ok (.dtxt n) ↔ c &&& 0xFF0000FF#32 = 0x00000005#32 ∧ n = wordLen c) ∧
    ((∃ e, decode c = .error e) ↔ ¬ LegalWord c)

/-- 30_encoding.md R73: a word with a non-zero Z1 or Z2 encodes no operation and ends in IllegalCommand, whatever
OP and LEN are. -/
def Obligations.NonzeroReservedBitsAreIllegal : Prop :=
  ∀ (c : Command) (s : State), c.toNat / 2 ^ 3 % 2 ^ 5 ≠ 0 ∨ c.toNat / 2 ^ 24 ≠ 0 →
    (∃ e, decode c = .error e) ∧ ∃ t, hostIssue c s = .next t ∧ t.kind = 3

/-- The words of the source's five worked examples decode to their instructions (95_test_vectors.md, S1 to S5). -/
def Obligations.SpecExampleWordsDecode : Prop :=
  decode 0x00000301#32 = .ok (.ds64 3) ∧ decode 0x00000302#32 = .ok (.du64 3) ∧
  decode 0x00000203#32 = .ok (.du16 2) ∧ decode 0x00000404#32 = .ok (.du32 4) ∧
  decode 0x00000705#32 = .ok (.dtxt 7)

/-! ### Steps -/

/-- A step whose next host action issues a word runs the decoded instruction; an illegal word gets the
IllegalCommand response. That the host's actions stand in a queue is the model's choice (log 1). -/
def Obligations.StepRunsTheDecodedCommand : Prop :=
  ∀ (s : State) (c : Command) (rest : List HostAction), s.pending = .issue c :: rest →
    (∀ i, decode c = .ok i → step s = exec i { s with pending := rest }) ∧
    (∀ e, decode c = .error e →
      step s = .next (illegalCommand (opField c) (lenField c).toNat { s with pending := rest }))

/-- The queue's actions are performed one by one in their order, each complete before the next, and an idle host
changes nothing, however long it idles. The queue and the idle step are the model's choice (log 1, log 3). -/
def Obligations.QueuedActionsHappenInOrder : Prop :=
  (∀ (a : HostAction) (rest : List HostAction) (s t : State) (k : Nat),
    perform a { s with pending := rest } = .next t →
      Sys2Proof.core.run (k + 1) ({ s with pending := a :: rest } : State) = Sys2Proof.core.run k t ∧
      t.pending = rest) ∧
  (∀ (s : State) (k : Nat), s.pending = [] → Sys2Proof.core.run k s = .next s)

/-- Every word in every state has exactly one response (40_datapath_units.md R101), and no step stops. The second
clause covers the step over the queue and the idle step, which are the model's choices (log 1, log 3), not R101's
words. -/
def Obligations.EveryCommandAndStepCompletes : Prop :=
  (∀ (c : Command) (s : State), ∃ t, hostIssue c s = .next t ∧ t.done = true ∧
    ∀ u, hostIssue c s = .next u → u = t) ∧
  (∀ s : State, SafeStep s)

/-- 40_datapath_units.md R100: `HostIssue(c)` leaves the response of the procedure `Exec(c)`, written over numbers,
and changes neither IBUF nor anything of the host. The model's own count of draws (log 2) is left out: the statement
says nothing of it. -/
def Obligations.HostIssueIsTheProcedureExec : Prop :=
  ∀ (c : Command) (s : State), ∃ t, hostIssue c s = .next t ∧
    SameResponse t (procedureExec c s) ∧ SameOutside s t

/-! ### The instructions: each one's result, its errors, and its frame -/

/-- 41_varwidth64.md R110, DS64. -/
def Obligations.Ds64SignExtendsOrReportsTheLength : Prop :=
  ∀ (n : Nat) (s : State), n ≤ 65535 →
    decode (BitVec.ofNat 32 (n * 256 + 1)) = .ok (.ds64 n) ∧
    (1 ≤ n ∧ n ≤ 8 → ∃ t, exec (.ds64 n) s = .next t ∧
      HoldsResponse t 0 1 n 1 8 ((BitVec.ofNat (8 * n) (le (operand s n))).signExtend 64) [] ∧ SameOutside s t) ∧
    (n = 0 ∨ 8 < n → ∃ t, exec (.ds64 n) s = .next t ∧ HoldsResponse t 1 1 n 1 8 0 [] ∧ SameOutside s t)

/-- 41_varwidth64.md R112, DU64. -/
def Obligations.Du64ZeroExtendsOrReportsTheLength : Prop :=
  ∀ (n : Nat) (s : State), n ≤ 65535 →
    decode (BitVec.ofNat 32 (n * 256 + 2)) = .ok (.du64 n) ∧
    (1 ≤ n ∧ n ≤ 8 → ∃ t, exec (.du64 n) s = .next t ∧
      HoldsResponse t 0 2 n 1 8 (BitVec.ofNat 64 (le (operand s n))) [] ∧
      t.value.toNat = le (operand s n) ∧ SameOutside s t) ∧
    (n = 0 ∨ 8 < n → ∃ t, exec (.du64 n) s = .next t ∧ HoldsResponse t 1 2 n 1 8 0 [] ∧ SameOutside s t)

/-- 42_fixedwidth.md R120, DU16. -/
def Obligations.Du16ReadsTwoBytesOrReportsTheLength : Prop :=
  ∀ (n : Nat) (s : State), n ≤ 65535 →
    decode (BitVec.ofNat 32 (n * 256 + 3)) = .ok (.du16 n) ∧
    (n = 2 → ∃ t, exec (.du16 n) s = .next t ∧
      HoldsResponse t 0 3 2 2 2
        (BitVec.ofNat 64 ((operandByte s 0).toNat + (operandByte s 1).toNat * 2 ^ 8)) [] ∧
      t.value.toNat < 2 ^ 16 ∧ SameOutside s t) ∧
    (n ≠ 2 → ∃ t, exec (.du16 n) s = .next t ∧ HoldsResponse t 1 3 n 2 2 0 [] ∧ SameOutside s t)

/-- 42_fixedwidth.md R122, DU32. -/
def Obligations.Du32ReadsFourBytesOrReportsTheLength : Prop :=
  ∀ (n : Nat) (s : State), n ≤ 65535 →
    decode (BitVec.ofNat 32 (n * 256 + 4)) = .ok (.du32 n) ∧
    (n = 4 → ∃ t, exec (.du32 n) s = .next t ∧
      HoldsResponse t 0 4 4 4 4
        (BitVec.ofNat 64 ((operandByte s 0).toNat + (operandByte s 1).toNat * 2 ^ 8 +
          (operandByte s 2).toNat * 2 ^ 16 + (operandByte s 3).toNat * 2 ^ 24)) [] ∧
      t.value.toNat < 2 ^ 32 ∧ SameOutside s t) ∧
    (n ≠ 4 → ∃ t, exec (.du32 n) s = .next t ∧ HoldsResponse t 1 4 n 4 4 0 [] ∧ SameOutside s t)

/-- 43_text.md R131, DTXT. -/
def Obligations.DtxtStripsZerosOrReportsEmptyInput : Prop :=
  ∀ (n : Nat) (s : State), n ≤ 65535 →
    decode (BitVec.ofNat 32 (n * 256 + 5)) = .ok (.dtxt n) ∧
    (1 ≤ n → ∃ t, exec (.dtxt n) s = .next t ∧
      HoldsResponse t 0 5 n 1 65535 0 ((operand s n).filter (fun b => b != 0)) ∧ SameOutside s t) ∧
    (n = 0 → ∃ t, exec (.dtxt n) s = .next t ∧ HoldsResponse t 2 5 0 1 65535 0 [] ∧ SameOutside s t)

/-- 30_encoding.md R76 and 60_exceptions.md R143: every illegal word completes with the IllegalCommand response. -/
def Obligations.IllegalWordsAnswerIllegalCommand : Prop :=
  ∀ (c : Command) (s : State), ¬ LegalWord c →
    ∃ t, hostIssue c s = .next t ∧ HoldsResponse t 3 (wordOp c) (wordLen c) 0 0 0 [] ∧ SameOutside s t

/-- The operand of a command is the bytes the host wrote in IBUF from index 0 upward, where it wrote them
(10_state.md R23, 20_memory.md R55). -/
def Obligations.OperandIsTheWrittenBytes : Prop :=
  ∀ (s : State) (n : Nat), OperandWritten s n →
    (operand s n).length = n ∧ ∀ i, i < n → (operand s n)[i]? = s.ibuf.read i

/-! ### Errors -/

/-- 40_datapath_units.md R91, FWV's table, for every length a command can state. -/
def Obligations.ValidatorFollowsItsTable : Prop :=
  ∀ len : Nat, len ≤ 65535 →
    (fwv .ds64 len = true ↔ 1 ≤ len ∧ len ≤ 8) ∧ (fwv .du64 len = true ↔ 1 ≤ len ∧ len ≤ 8) ∧
    (fwv .du16 len = true ↔ len = 2) ∧ (fwv .du32 len = true ↔ len = 4) ∧ (fwv .dtxt len = true ↔ 1 ≤ len) ∧
    Op.ds64.lengthRule = ⟨1, 8, .invalidLength⟩ ∧ Op.du64.lengthRule = ⟨1, 8, .invalidLength⟩ ∧
    Op.du16.lengthRule = ⟨2, 2, .invalidLength⟩ ∧ Op.du32.lengthRule = ⟨4, 4, .invalidLength⟩ ∧
    Op.dtxt.lengthRule = ⟨1, 65535, .emptyInput⟩

/-- 60_exceptions.md R142: exactly when InvalidLength is raised, and the range it reports. -/
def Obligations.InvalidLengthExactlyOutsideTheRange : Prop :=
  ∀ (c : Command) (s : State), ∃ t, hostIssue c s = .next t ∧
    (t.kind = 1 ↔ LegalWord c ∧
      ((wordOp c = 1 ∧ (wordLen c = 0 ∨ 9 ≤ wordLen c)) ∨ (wordOp c = 2 ∧ (wordLen c = 0 ∨ 9 ≤ wordLen c)) ∨
        (wordOp c = 3 ∧ wordLen c ≠ 2) ∨ (wordOp c = 4 ∧ wordLen c ≠ 4))) ∧
    (t.kind = 1 →
      (wordOp c = 1 ∧ t.expLo = 1 ∧ t.expHi = 8) ∨ (wordOp c = 2 ∧ t.expLo = 1 ∧ t.expHi = 8) ∨
      (wordOp c = 3 ∧ t.expLo = 2 ∧ t.expHi = 2) ∨ (wordOp c = 4 ∧ t.expLo = 4 ∧ t.expHi = 4))

/-- 60_exceptions.md R144: EmptyInput is raised by the one word with OP = 5 and LEN = 0, and what it records. -/
def Obligations.EmptyInputExactlyForEmptyText : Prop :=
  ∀ (c : Command) (s : State), ∃ t, hostIssue c s = .next t ∧
    (t.kind = 2 ↔ LegalWord c ∧ wordOp c = 5 ∧ wordLen c = 0) ∧
    (t.kind = 2 → HoldsResponse t 2 5 0 1 65535 0 [])

/-- 60_exceptions.md R145 and R148: the first failing check decides the kind, and nothing but the command word
does. -/
def Obligations.KindFollowsTheOrderOfChecks : Prop :=
  ∀ (c : Command) (s : State), ∃ t, hostIssue c s = .next t ∧
    t.kind =
      (if ¬ LegalWord c then 3
       else if wordLen c < (legalRange (wordOp c)).1 ∨ (legalRange (wordOp c)).2 < wordLen c then
         (if wordOp c = 5 then 2 else 1)
       else 0)

/-- 60_exceptions.md R141: the shape every error leaves, with IBUF unchanged and not read (the same response
whatever it holds). -/
def Obligations.EveryErrorLeavesTheErrorResponse : Prop :=
  ∀ (c : Command) (s t : State), hostIssue c s = .next t → t.kind ≠ 0 →
    HoldsResponse t t.kind.toNat (wordOp c) (wordLen c)
      (if t.kind = 3 then 0 else (legalRange (wordOp c)).1) (if t.kind = 3 then 0 else (legalRange (wordOp c)).2)
      0 [] ∧
    SameOutside s t ∧ ∀ m : Memory, ∃ t', hostIssue c { s with ibuf := m } = .next t' ∧ SameResponse t t'

/-- 60_exceptions.md R149 and R150: an error leaves the next command exactly as it would have been, and every
command overwrites the whole response whatever stood there. -/
def Obligations.ErrorsAreNotSticky : Prop :=
  (∀ (c c' : Command) (s t : State), hostIssue c s = .next t → t.kind ≠ 0 →
    SameOutside s t ∧ hostIssue c' t = hostIssue c' s) ∧
  (∀ (c : Command) (s : State) (v e : BitVec 64) (w : BitVec 32) (x : List Byte),
    hostIssue c { s with value := v, status := w, errinfo := e, text := x } = hostIssue c s)

/-- 10_state.md R31 and R35: FN and the three fields of ERRINFO come from the command word alone, on every
outcome. -/
def Obligations.FnAndErrinfoComeFromTheWord : Prop :=
  ∀ (c : Command) (s : State), ∃ t, hostIssue c s = .next t ∧
    t.fn.toNat = wordOp c ∧ t.received = wordLen c ∧
    t.expLo = (if LegalWord c then (legalRange (wordOp c)).1 else 0) ∧
    t.expHi = (if LegalWord c then (legalRange (wordOp c)).2 else 0) ∧
    (t.kind = 0 → t.expLo ≤ t.received ∧ t.received ≤ t.expHi) ∧
    (wordOp c = 0 ∨ wordOp c = 6 ∨ wordOp c = 7 → t.kind = 3)

/-! ### What a command depends on -/

/-- 00_scope.md R14: the response is a function of the command word and the operand bytes. -/
def Obligations.ResponseDependsOnWordAndOperandAlone : Prop :=
  ∀ (c : Command) (s s' t t' : State), (∀ i, i < wordLen c → operandByte s i = operandByte s' i) →
    hostIssue c s = .next t → hostIssue c s' = .next t' → SameResponse t t'

/-- A failing command reads nothing: its response is the same whatever IBUF holds, and it draws no free byte
(20_memory.md R53; the count of free bytes is the model's own, log 2). -/
def Obligations.FailingCommandsReadNoOperand : Prop :=
  ∀ (c : Command) (s t : State) (m : Memory) (d : Nat), hostIssue c s = .next t → t.kind ≠ 0 →
    t.draws = s.draws ∧ ∃ t', hostIssue c { s with ibuf := m, draws := d } = .next t' ∧ SameResponse t t'

/-- Where the host wrote the whole operand (70_reset_and_hazards.md R163), no free byte reaches the response: it is
the same from every value of the model's own count of free bytes (log 2). -/
def Obligations.WrittenOperandFixesTheResponse : Prop :=
  ∀ (c : Command) (s t : State) (d : Nat), OperandWritten s (wordLen c) → hostIssue c s = .next t →
    ∃ t', hostIssue c { s with draws := d } = .next t' ∧ SameResponse t t'

/-! ### IBUF, the host's reads, reset -/

/-- 10_state.md R24: nothing but a host write changes an entry of IBUF (reset, which makes them unspecified, R161,
apart). -/
def Obligations.OnlyHostWritesChangeIbuf : Prop :=
  ∀ (a : HostAction) (s t : State), perform a s = .next t → (∀ i b, a ≠ .writeIbuf i b) → a ≠ .reset →
    t.ibuf = s.ibuf ∧ ∀ k, t.ibuf.read k = s.ibuf.read k

/-- 20_memory.md R52: a host write sets its entry and changes nothing else. -/
def Obligations.HostWriteSetsOneEntry : Prop :=
  ∀ (i : Index) (b : Byte) (s : State), ∃ t, perform (.writeIbuf i b) s = .next t ∧
    t.ibuf.read i.toNat = some b ∧ (∀ k, k ≠ i.toNat → t.ibuf.read k = s.ibuf.read k) ∧
    SameResponse s t ∧ t.pending = s.pending ∧ t.reads = s.reads ∧ t.draws = s.draws

/-- Of two writes to one entry the later wins (20_memory.md R62 item 2), and writes to different entries may come
in any order (70_reset_and_hazards.md R163), as equality of whole states: IBUF's canonical form makes equal
contents equal data. -/
def Obligations.LaterWriteWinsAndOthersCommute : Prop :=
  (∀ (i : Index) (b b' : Byte) (s : State),
    hostWriteIbuf i b' (hostWriteIbuf i b s) = hostWriteIbuf i b' s) ∧
  (∀ (i j : Index) (b b' : Byte) (s : State), s.ibuf.wf = true → i ≠ j →
    hostWriteIbuf j b' (hostWriteIbuf i b s) = hostWriteIbuf i b (hostWriteIbuf j b' s))

/-- 10_state.md R29: DONE is set by every command, cleared by reset alone, and kept by everything else. -/
def Obligations.DoneIsSetByCommandsAndClearedByReset : Prop :=
  State.reset.done = false ∧
  ∀ (a : HostAction) (s t : State), perform a s = .next t →
    ((∃ c, a = .issue c) → t.done = true) ∧ (a = .reset → t.done = false) ∧
    ((∀ c, a ≠ .issue c) → a ≠ .reset → t.done = s.done)

/-- A read of a response register returns the whole register and changes nothing of the block (10_state.md R39).
That what it returns is kept in a list is the model's choice (log 4). -/
def Obligations.RegisterReadsReturnTheWholeRegister : Prop :=
  ∀ s : State,
    perform (.readReg .value) s = .next { s with reads := s.reads ++ [.value s.value] } ∧
    perform (.readReg .status) s = .next { s with reads := s.reads ++ [.status s.status] } ∧
    perform (.readReg .errinfo) s = .next { s with reads := s.reads ++ [.errinfo s.errinfo] }

/-- A read of the text output returns TEXT[i] below OLEN and 0x00 at and beyond it, and changes nothing of the
block (10_state.md R37). The premise says that TEXT has OLEN bytes (R36), an invariant stated below. The list of
reads is the model's choice (log 4). -/
def Obligations.TextReadsAreMaskedByOlen : Prop :=
  ∀ (s : State) (i : Index), s.Inv →
    ∃ b : Byte, perform (.readObuf i) s = .next { s with reads := s.reads ++ [.obuf i b] } ∧
      (i.toNat < s.olen → s.text[i.toNat]? = some b) ∧ (s.olen ≤ i.toNat → b = 0)

/-- However many other actions follow a command, its response stays: only a command or reset changes it
(20_memory.md R62 items 3 and 4, 10_state.md R39). -/
def Obligations.OnlyCommandsAndResetChangeTheResponse : Prop :=
  ∀ (acts rest : List HostAction) (s t : State), (∀ a ∈ acts, (∀ c, a ≠ .issue c) ∧ a ≠ .reset) →
    Sys2Proof.core.run acts.length ({ s with pending := acts ++ rest } : State) = .next t →
    SameResponse s t ∧ t.pending = rest

/-- 10_state.md R41: the response registers after reset, in the reset state and after a reset at any time. -/
def Obligations.ResetZeroesTheResponse : Prop :=
  (State.reset.value = 0 ∧ State.reset.status = 0 ∧ State.reset.errinfo = 0 ∧ State.reset.text = []) ∧
  ∀ s : State, ∃ t, perform .reset s = .next t ∧ t.value = 0 ∧ t.status = 0 ∧ t.errinfo = 0 ∧ t.text = [] ∧
    t.done = false ∧ t.kind = 0 ∧ t.fn = 0 ∧ t.olen = 0 ∧ t.received = 0 ∧ t.expLo = 0 ∧ t.expHi = 0

/-- After reset no entry of IBUF counts as written: a model's choice for what the spec leaves unspecified
(70_reset_and_hazards.md R161; log 2, log 5). -/
def Obligations.ResetLeavesIbufUnwritten : Prop :=
  (∀ k, State.reset.ibuf.read k = none) ∧
  ∀ s : State, ∃ t, perform .reset s = .next t ∧ (∀ k, t.ibuf.read k = none) ∧
    t.pending = s.pending ∧ t.reads = s.reads ∧ t.draws = s.draws

/-! ### Invariants -/

/-- The invariants of 10_state.md R42 hold at reset, whatever the host is about to do. -/
def Obligations.ResetMeetsTheInvariants : Prop :=
  ∀ acts : List HostAction, ({ State.reset with pending := acts } : State).Inv

/-- Every step from every state that meets the invariants gives a state that meets them (10_state.md R42, R36,
20_memory.md R50). -/
def Obligations.StepKeepsTheInvariants : Prop :=
  ∀ s t : State, s.Inv → step s = .next t → t.Inv

/-- Every state reached from reset by host actions meets the ten invariants of 10_state.md R42, and TEXT has OLEN
bytes. Beyond R42's words, IBUF is in its canonical form (Memory.wf) and a reset counts as one of the actions: both
are the model's (log 2, log 5). -/
def Obligations.ReachableStatesMeetTheInvariants : Prop :=
  ∀ s : State, Reachable s → s.Inv

/-! ### The datapath -/

/-- 00_scope.md R9: the little-endian value is the sum of B[i] * 256^i, and is below 2^(8n). -/
def Obligations.LittleEndianValueIsTheSum : Prop :=
  ∀ bs : List Byte,
    le bs = (Finset.range bs.length).sum (fun i => (bs.getD i 0).toNat * 256 ^ i) ∧ le [] = 0 ∧
    le bs < 2 ^ (8 * bs.length)

/-- 40_datapath_units.md R94: the filler byte depends on bit 7 of the last supplied byte alone, and is 0x00 for
every operation but DS64. -/
def Obligations.FillerFollowsBitSevenOfTheLastByte : Prop :=
  ∀ (op : Op) (bs : List Byte) (last : Byte),
    msb (bs ++ [last]) = last ∧
    sxu op last = (if op = .ds64 ∧ 128 ≤ last.toNat then 0xFF#8 else 0x00#8)

/-- 40_datapath_units.md R96: byte i of the word LED64 makes is the operand's where it supplies one and the filler
elsewhere. -/
def Obligations.PaddedWordHoldsOperandThenFiller : Prop :=
  ∀ (bs : List Byte) (f : Byte) (i : Nat), 1 ≤ bs.length → bs.length ≤ 8 → i < 8 →
    (led64 bs f).extractLsb' (8 * i) 8 = (if h : i < bs.length then bs[i] else f)

/-- 40_datapath_units.md R97: the closed forms of the padded word. -/
def Obligations.PaddedWordClosedForms : Prop :=
  ∀ bs : List Byte, 1 ≤ bs.length → bs.length ≤ 8 →
    (led64 bs 0x00).toNat = le bs ∧
    (led64 bs 0xFF).toNat = le bs + 2 ^ 64 - 2 ^ (8 * bs.length) ∧
    (sxu .ds64 (msb bs) = 0xFF ↔ 2 ^ (8 * bs.length - 1) ≤ le bs) ∧
    (∀ op, op ≠ .ds64 → sxu op (msb bs) = 0x00) ∧
    (ds64Value bs).toInt = (BitVec.ofNat (8 * bs.length) (le bs)).toInt ∧
    (ds64Value bs).toNat % 2 ^ (8 * bs.length) = le bs ∧
    (du64Value bs).toNat % 2 ^ (8 * bs.length) = le bs

/-- 41_varwidth64.md R111: the numbers DS64 produces, each by exactly one operand of a length, and the round
trip. -/
def Obligations.Ds64CoversItsSignedRangeOnce : Prop :=
  ∀ n : Nat, 1 ≤ n → n ≤ 8 →
    (∀ s : State, ∃ t, exec (.ds64 n) s = .next t ∧ t.value = ds64Value (operand s n)) ∧
    (∀ bs : List Byte, bs.length = n →
      (ds64Value bs).toInt = (if le bs < 2 ^ (8 * n - 1) then (le bs : Int) else (le bs : Int) - 2 ^ (8 * n)) ∧
      -2 ^ (8 * n - 1) ≤ (ds64Value bs).toInt ∧ (ds64Value bs).toInt ≤ 2 ^ (8 * n - 1) - 1) ∧
    (∀ v : Int, -2 ^ (8 * n - 1) ≤ v → v ≤ 2 ^ (8 * n - 1) - 1 →
      (∃! bs : List Byte, bs.length = n ∧ (ds64Value bs).toInt = v) ∧
      ∀ bs : List Byte, bs.length = n → (le bs : Int) = v % 2 ^ (8 * n) → (ds64Value bs).toInt = v)

/-- 41_varwidth64.md R113: the numbers DU64 produces, each by exactly one operand of a length. -/
def Obligations.Du64CoversItsUnsignedRangeOnce : Prop :=
  ∀ n : Nat, 1 ≤ n → n ≤ 8 →
    (∀ s : State, ∃ t, exec (.du64 n) s = .next t ∧ t.value = du64Value (operand s n)) ∧
    (∀ bs : List Byte, bs.length = n →
      (du64Value bs).toNat = le bs ∧ (du64Value bs).toNat ≤ 2 ^ (8 * n) - 1) ∧
    (∀ v : Nat, v ≤ 2 ^ (8 * n) - 1 → ∃! bs : List Byte, bs.length = n ∧ (du64Value bs).toNat = v)

/-- 41_varwidth64.md R114: how the two variable-width results over one operand relate. -/
def Obligations.SignedAndUnsignedAgreeInTheLowBits : Prop :=
  ∀ bs : List Byte, 1 ≤ bs.length → bs.length ≤ 8 →
    (ds64Value bs).toNat % 2 ^ (8 * bs.length) = le bs ∧ (du64Value bs).toNat % 2 ^ (8 * bs.length) = le bs ∧
    (ds64Value bs = du64Value bs ↔ bs.length = 8 ∨ (bs.getD (bs.length - 1) 0).getLsbD 7 = false) ∧
    (bs.length < 8 → (bs.getD (bs.length - 1) 0).getLsbD 7 = true →
      (∀ k, 8 * bs.length ≤ k → k < 64 →
        (ds64Value bs).getLsbD k = true ∧ (du64Value bs).getLsbD k = false) ∧
      (ds64Value bs).toNat - (du64Value bs).toNat = 2 ^ 64 - 2 ^ (8 * bs.length) ∧
      ((du64Value bs).toNat : Int) - (ds64Value bs).toInt = 2 ^ (8 * bs.length))

/-- 42_fixedwidth.md R121 and R123: the fixed-width decoders and DU64 leave the same VALUE where both succeed, and
differ in the lengths they accept and in FN, EXP_LO and EXP_HI. -/
def Obligations.FixedWidthAgreesWithDu64 : Prop :=
  ∀ s : State,
    (∃ t u, exec (.du16 2) s = .next t ∧ exec (.du64 2) s = .next u ∧ t.value = u.value ∧ t.kind = 0 ∧
      u.kind = 0 ∧ t.fn ≠ u.fn ∧ t.expLo ≠ u.expLo ∧ t.expHi ≠ u.expHi) ∧
    (∃ t u, exec (.du32 4) s = .next t ∧ exec (.du64 4) s = .next u ∧ t.value = u.value ∧ t.kind = 0 ∧
      u.kind = 0) ∧
    (∃ n, fwv .du64 n = true ∧ fwv .du16 n = false)

/-- 20_memory.md R56: over one IBUF the shorter operand is the low part of the longer, with the rule's example. -/
def Obligations.ShorterOperandIsTheLowPart : Prop :=
  (∀ (s : State) (m n : Nat), m < n → le (operand s m) = le (operand s n) % 2 ^ (8 * m)) ∧
  (∀ s : State, s.ibuf.read 0 = some 0xF6 → s.ibuf.read 1 = some 0xC9 → s.ibuf.read 2 = some 0xC9 →
    s.ibuf.read 3 = some 0x00 →
    ∃ t u, exec (.du16 2) s = .next t ∧ exec (.du32 4) s = .next u ∧ t.value = 0xC9F6 ∧ u.value = 0x00C9C9F6)

/-- 43_text.md R130: ZBS keeps exactly the non-zero bytes in order, and the facts that follow. -/
def Obligations.StripKeepsTheNonzeroBytesInOrder : Prop :=
  (∀ bs : List Byte, strip0 bs = bs.filter (fun b => b != 0) ∧ (strip0 bs).Sublist bs ∧
    (strip0 bs).length = bs.countP (fun b => b != 0) ∧ (strip0 bs).length ≤ bs.length ∧
    (∀ b ∈ strip0 bs, b ≠ 0) ∧ strip0 (strip0 bs) = strip0 bs) ∧
  ∀ as bs : List Byte, strip0 (as ++ bs) = strip0 as ++ strip0 bs

/-- 43_text.md R133: UTF-16LE text of k ASCII characters comes out as those characters, with or without its last
high byte, and a NUL character vanishes. -/
def Obligations.AsciiTextComesOutAsItsLowBytes : Prop :=
  (∀ (chars : List Byte) (s : State), 1 ≤ chars.length →
    (∀ c ∈ chars, 0x01 ≤ c.toNat ∧ c.toNat ≤ 0x7F) →
    (2 * chars.length ≤ 65535 → operand s (2 * chars.length) = chars.flatMap (fun c => [c, 0x00]) →
      ∃ t, exec (.dtxt (2 * chars.length)) s = .next t ∧ t.text = chars ∧ t.olen = chars.length) ∧
    (2 * chars.length - 1 ≤ 65535 →
      operand s (2 * chars.length - 1) = (chars.flatMap (fun c => [c, 0x00])).dropLast →
      ∃ t, exec (.dtxt (2 * chars.length - 1)) s = .next t ∧ t.text = chars ∧ t.olen = chars.length)) ∧
  (∀ as bs : List Byte, strip0 (as ++ [0x00, 0x00] ++ bs) = strip0 as ++ strip0 bs)

/-! ### The document's function call -/

/-- LOAD puts its bytes where the next command reads them, whatever IBUF held, and changes no other entry and no
response register (30_encoding.md R80; the queue is the model's choice, log 1). -/
def Obligations.LoadedBytesAreTheOperand : Prop :=
  ∀ (bs : List Byte) (s : State) (rest : List HostAction), bs.length ≤ 65535 →
    ∃ t : State, Sys2Proof.core.run bs.length ({ s with pending := loadFrom 0 bs ++ rest } : State) = .next t ∧
      operand t bs.length = bs ∧ (∀ k, bs.length ≤ k → t.ibuf.read k = s.ibuf.read k) ∧
      SameResponse s t ∧ t.pending = rest ∧ t.reads = s.reads

/-- The block computes the document's five functions: LOAD of any byte slice and then the command, from any state
at all, leave the error kind, the integer and the text that the document's function gives for that slice
(00_scope.md R2, 30_encoding.md R80; the queue is the model's choice, log 1). -/
def Obligations.CallsComputeTheDocumentsFunctions : Prop :=
  ∀ (op : Op) (bs : List Byte) (s : State) (rest : List HostAction), bs.length ≤ 65535 →
    ∃ t : State, Sys2Proof.core.run (bs.length + 1) ({ s with pending := callActions op bs ++ rest } : State) =
        .next t ∧
      HoldsResponse t (documentResult op bs).1 op.code.toNat bs.length (legalRange op.code.toNat).1
        (legalRange op.code.toNat).2 (documentResult op bs).2.1 (documentResult op bs).2.2 ∧
      t.pending = rest ∧ t.reads = s.reads
end

