-- ==== Sys2Proof/Laws/State.lean ====
section
/-! SUPPORT. What each update of the state leaves in each field. -/

namespace Sys2Proof.Machine

section respond
variable (r : Response) (s : State)

@[simp] theorem respond_ibuf : (respond r s).ibuf = s.ibuf := rfl
@[simp] theorem respond_value : (respond r s).value = r.value := rfl
@[simp] theorem respond_status : (respond r s).status = statusWord r.kind r.fn r.text.length := rfl
@[simp] theorem respond_errinfo : (respond r s).errinfo = errinfoWord r.received r.lo r.hi := rfl
@[simp] theorem respond_text : (respond r s).text = r.text := rfl
@[simp] theorem respond_pending : (respond r s).pending = s.pending := rfl
@[simp] theorem respond_reads : (respond r s).reads = s.reads := rfl
@[simp] theorem respond_draws : (respond r s).draws = s.draws := rfl
end respond

section raiseError
variable (k : Kind) (fn : BitVec 3) (received lo hi : Nat) (s : State)

@[simp] theorem raiseError_ibuf : (raiseError k fn received lo hi s).ibuf = s.ibuf := rfl
@[simp] theorem raiseError_value : (raiseError k fn received lo hi s).value = 0 := rfl
@[simp] theorem raiseError_status : (raiseError k fn received lo hi s).status = statusWord k fn 0 := rfl
@[simp] theorem raiseError_errinfo : (raiseError k fn received lo hi s).errinfo = errinfoWord received lo hi := rfl
@[simp] theorem raiseError_text : (raiseError k fn received lo hi s).text = [] := rfl
@[simp] theorem raiseError_pending : (raiseError k fn received lo hi s).pending = s.pending := rfl
@[simp] theorem raiseError_reads : (raiseError k fn received lo hi s).reads = s.reads := rfl
@[simp] theorem raiseError_draws : (raiseError k fn received lo hi s).draws = s.draws := rfl
end raiseError

section afterRead
variable (s : State) (n : Nat)

@[simp] theorem afterRead_ibuf : (s.afterRead n).ibuf = s.ibuf := rfl
@[simp] theorem afterRead_value : (s.afterRead n).value = s.value := rfl
@[simp] theorem afterRead_status : (s.afterRead n).status = s.status := rfl
@[simp] theorem afterRead_errinfo : (s.afterRead n).errinfo = s.errinfo := rfl
@[simp] theorem afterRead_text : (s.afterRead n).text = s.text := rfl
@[simp] theorem afterRead_pending : (s.afterRead n).pending = s.pending := rfl
@[simp] theorem afterRead_reads : (s.afterRead n).reads = s.reads := rfl
@[simp] theorem afterRead_draws : (s.afterRead n).draws = s.draws + n := rfl
end afterRead

section hostWriteIbuf
variable (i : Index) (b : Byte) (s : State)

@[simp] theorem hostWriteIbuf_ibuf : (hostWriteIbuf i b s).ibuf = s.ibuf.write i.toNat b := rfl
@[simp] theorem hostWriteIbuf_value : (hostWriteIbuf i b s).value = s.value := rfl
@[simp] theorem hostWriteIbuf_status : (hostWriteIbuf i b s).status = s.status := rfl
@[simp] theorem hostWriteIbuf_errinfo : (hostWriteIbuf i b s).errinfo = s.errinfo := rfl
@[simp] theorem hostWriteIbuf_text : (hostWriteIbuf i b s).text = s.text := rfl
@[simp] theorem hostWriteIbuf_pending : (hostWriteIbuf i b s).pending = s.pending := rfl
@[simp] theorem hostWriteIbuf_reads : (hostWriteIbuf i b s).reads = s.reads := rfl
@[simp] theorem hostWriteIbuf_draws : (hostWriteIbuf i b s).draws = s.draws := rfl
end hostWriteIbuf

section hostReadReg
variable (r : Reg) (s : State)

@[simp] theorem hostReadReg_ibuf : (hostReadReg r s).ibuf = s.ibuf := rfl
@[simp] theorem hostReadReg_value : (hostReadReg r s).value = s.value := rfl
@[simp] theorem hostReadReg_status : (hostReadReg r s).status = s.status := rfl
@[simp] theorem hostReadReg_errinfo : (hostReadReg r s).errinfo = s.errinfo := rfl
@[simp] theorem hostReadReg_text : (hostReadReg r s).text = s.text := rfl
@[simp] theorem hostReadReg_pending : (hostReadReg r s).pending = s.pending := rfl
@[simp] theorem hostReadReg_reads : (hostReadReg r s).reads = s.reads ++ [regReading r s] := rfl
@[simp] theorem hostReadReg_draws : (hostReadReg r s).draws = s.draws := rfl
end hostReadReg

section hostReadObuf
variable (i : Index) (s : State)

@[simp] theorem hostReadObuf_ibuf : (hostReadObuf i s).ibuf = s.ibuf := rfl
@[simp] theorem hostReadObuf_value : (hostReadObuf i s).value = s.value := rfl
@[simp] theorem hostReadObuf_status : (hostReadObuf i s).status = s.status := rfl
@[simp] theorem hostReadObuf_errinfo : (hostReadObuf i s).errinfo = s.errinfo := rfl
@[simp] theorem hostReadObuf_text : (hostReadObuf i s).text = s.text := rfl
@[simp] theorem hostReadObuf_pending : (hostReadObuf i s).pending = s.pending := rfl
@[simp] theorem hostReadObuf_reads : (hostReadObuf i s).reads = s.reads ++ [.obuf i (obufByte s i.toNat)] := rfl
@[simp] theorem hostReadObuf_draws : (hostReadObuf i s).draws = s.draws := rfl
end hostReadObuf

section hostReset
variable (s : State)

@[simp] theorem hostReset_ibuf : (hostReset s).ibuf = [] := rfl
@[simp] theorem hostReset_value : (hostReset s).value = 0 := rfl
@[simp] theorem hostReset_status : (hostReset s).status = 0 := rfl
@[simp] theorem hostReset_errinfo : (hostReset s).errinfo = 0 := rfl
@[simp] theorem hostReset_text : (hostReset s).text = [] := rfl
@[simp] theorem hostReset_pending : (hostReset s).pending = s.pending := rfl
@[simp] theorem hostReset_reads : (hostReset s).reads = s.reads := rfl
@[simp] theorem hostReset_draws : (hostReset s).draws = s.draws := rfl
end hostReset

section fieldsFromWords
variable (k : Kind) (fn : BitVec 3) (n : Nat) (received lo hi : Nat) (s : State)

/-- DONE is one in every STATUS word a command writes (10_state.md R29). -/
theorem done_of_statusWord (h : s.status = statusWord k fn n) : s.done = true := by
  unfold State.done; rw [h]; unfold statusWord; rw [BitVec.getLsbD_append]; simp

/-- KIND of a STATUS word (10_state.md R30). -/
theorem kind_of_statusWord (h : s.status = statusWord k fn n) : s.kind = k.code := by
  unfold State.kind; rw [h]; unfold statusWord
  ext i hi
  simp
  grind

/-- FN of a STATUS word (10_state.md R31). -/
theorem fn_of_statusWord (h : s.status = statusWord k fn n) : s.fn = fn := by
  unfold State.fn; rw [h]; unfold statusWord
  ext i hi
  simp
  grind

/-- OLEN of a STATUS word (10_state.md R32). -/
theorem olen_of_statusWord (h : s.status = statusWord k fn n) : s.olen = n % 65536 := by
  have e : s.status.extractLsb' 8 16 = BitVec.ofNat 16 n := by
    rw [h]; unfold statusWord
    ext i hi
    simp
    grind
  simp [State.olen, e]

/-- The three fields of an ERRINFO word (10_state.md R34). -/
theorem fields_of_errinfoWord (h : s.errinfo = errinfoWord received lo hi) :
    s.received = received % 65536 ∧ s.expLo = lo % 65536 ∧ s.expHi = hi % 65536 := by
  have e0 : s.errinfo.extractLsb' 0 16 = BitVec.ofNat 16 received := by
    rw [h]; unfold errinfoWord; ext i hi; simp; grind
  have e1 : s.errinfo.extractLsb' 16 16 = BitVec.ofNat 16 lo := by
    rw [h]; unfold errinfoWord; ext i hi; simp; grind
  have e2 : s.errinfo.extractLsb' 32 16 = BitVec.ofNat 16 hi := by
    rw [h]; unfold errinfoWord; ext i hi; simp; grind
  simp [State.received, State.expLo, State.expHi, e0, e1, e2]

end fieldsFromWords

end Sys2Proof.Machine
end

