-- ==== Sys2Proof/Laws/Command.lean ====
section
/-! SUPPORT. Once for each shared operation: everything it can do. -/

namespace Sys2Proof.Machine

theorem lengthRule_ds64 : Op.ds64.lengthRule = ⟨1, 8, .invalidLength⟩ := rfl
theorem lengthRule_du64 : Op.du64.lengthRule = ⟨1, 8, .invalidLength⟩ := rfl
theorem lengthRule_du16 : Op.du16.lengthRule = ⟨2, 2, .invalidLength⟩ := rfl
theorem lengthRule_du32 : Op.du32.lengthRule = ⟨4, 4, .invalidLength⟩ := rfl
theorem lengthRule_dtxt : Op.dtxt.lengthRule = ⟨1, 65535, .emptyInput⟩ := rfl

/-- FWV passes exactly the lengths of the operation's range. -/
theorem fwv_iff (op : Op) (len : Nat) :
    fwv op len = true ↔ op.lengthRule.lo ≤ len ∧ len ≤ op.lengthRule.hi := by
  simp [fwv]

/-- A command either passes its length check, reads its operand and responds, or raises its one length error. -/
theorem command_cases (op : Op) (len : Nat) (finish : List Byte → BitVec 64 × List Byte) (s : State) :
    (fwv op len = true ∧
      command op len finish s =
        respond ⟨.none, op.code, len, op.lengthRule.lo, op.lengthRule.hi, (finish (operand s len)).1,
          (finish (operand s len)).2⟩ (s.afterRead len)) ∨
    (fwv op len = false ∧
      command op len finish s =
        raiseError op.lengthRule.kind op.code len op.lengthRule.lo op.lengthRule.hi s) := by
  unfold command
  cases h : fwv op len
  · exact .inr ⟨rfl, by simp⟩
  · exact .inl ⟨rfl, by simp⟩

/-- The operation of an instruction. -/
def instrOp : Instr → Op
  | .ds64 _ => .ds64
  | .du64 _ => .du64
  | .du16 _ => .du16
  | .du32 _ => .du32
  | .dtxt _ => .dtxt

/-- What an instruction computes from its operand. -/
def instrFinish : Instr → List Byte → BitVec 64 × List Byte
  | .ds64 _, bs => (ds64Value bs, [])
  | .du64 _, bs => (du64Value bs, [])
  | .du16 _, bs => ((led16 bs).setWidth 64, [])
  | .du32 _, bs => ((led32 bs).setWidth 64, [])
  | .dtxt _, bs => (0, strip0 bs)

/-- Every instruction is one run of the shared command. -/
theorem exec_eq_command (i : Instr) (s : State) :
    exec i s = .next (command (instrOp i) i.len (instrFinish i) s) := by
  cases i <;> rfl

/-- `HostIssue` runs the decoded instruction, or answers an illegal word with the IllegalCommand response. -/
theorem hostIssue_cases (c : Command) (s : State) :
    (∃ i, decode c = .ok i ∧
      hostIssue c s = .next (command (instrOp i) i.len (instrFinish i) s)) ∨
    (∃ e, decode c = .error e ∧
      hostIssue c s = .next (raiseError .illegalCommand (opField c) (lenField c).toNat 0 0 s)) := by
  unfold hostIssue
  cases h : decode c with
  | ok i => exact .inl ⟨i, rfl, exec_eq_command i s⟩
  | error e => exact .inr ⟨e, rfl, rfl⟩

/-- What one host action can do. -/
theorem perform_cases (a : HostAction) (s t : State) (h : perform a s = .next t) :
    (∃ i b, a = .writeIbuf i b ∧ t = hostWriteIbuf i b s) ∨
    (∃ c, a = .issue c ∧ hostIssue c s = .next t) ∨
    (∃ r, a = .readReg r ∧ t = hostReadReg r s) ∨
    (∃ i, a = .readObuf i ∧ t = hostReadObuf i s) ∨
    (a = .reset ∧ t = hostReset s) := by
  cases a with
  | writeIbuf i b => cases h; exact .inl ⟨i, b, rfl, rfl⟩
  | issue c => exact .inr (.inl ⟨c, rfl, h⟩)
  | readReg r => cases h; exact .inr (.inr (.inl ⟨r, rfl, rfl⟩))
  | readObuf i => cases h; exact .inr (.inr (.inr (.inl ⟨i, rfl, rfl⟩)))
  | reset => cases h; exact .inr (.inr (.inr (.inr ⟨rfl, rfl⟩)))

/-- What one step can do. -/
theorem step_cases (s t : State) (h : step s = .next t) :
    (s.pending = [] ∧ t = s) ∨
    (∃ a rest, s.pending = a :: rest ∧ perform a { s with pending := rest } = .next t) := by
  unfold step at h
  split at h
  next hp => cases h; exact .inl ⟨hp, rfl⟩
  next a rest hp => exact .inr ⟨a, rest, hp, h⟩

/-- A run of one more step than `k` from a state whose step goes on. -/
theorem run_next (k : Nat) (s t : State) (h : step s = .next t) :
    Sys2Proof.core.run (k + 1) s = Sys2Proof.core.run k t := by
  have e : ∀ (M : Host.Core) (k : Nat) (s t : M.State), M.step s = .next t → M.run (k + 1) s = M.run k t := by
    intro M k s t h
    simp [Host.Core.run, h]
  exact e Sys2Proof.core k s t h

end Sys2Proof.Machine
end

