-- ==== Sys2Proof/Laws/Memory.lean ====
section
/-! SUPPORT. Reading and writing IBUF, and that every write keeps its canonical form. -/

namespace Sys2Proof.Machine

@[simp] theorem Memory.read_nil (i : Nat) : Memory.read [] i = none := rfl

@[simp] theorem Memory.wf_nil : Memory.wf [] = true := rfl

/-- A read after a write to the same entry gives the byte written. -/
@[simp] theorem Memory.read_write_same (m : Memory) (i : Nat) (b : Byte) :
    (m.write i b).read i = some b := by
  induction m with
  | nil => simp [Memory.write, Memory.read]
  | cons c m ih =>
    obtain ⟨a, x⟩ := c
    rw [Memory.write]
    split_ifs with h1 h2
    · simp [Memory.read]
    · simp [Memory.read]
    · rw [Memory.read, if_neg (by omega), ih]

/-- A write leaves every other entry as it was. -/
theorem Memory.read_write_other (m : Memory) (i j : Nat) (b : Byte) (h : j ≠ i) :
    (m.write i b).read j = m.read j := by
  induction m with
  | nil => simp [Memory.write, Memory.read, Ne.symm h]
  | cons c m ih =>
    obtain ⟨a, x⟩ := c
    rw [Memory.write]
    split_ifs with h1 h2
    · simp [Memory.read, Ne.symm h]
    · subst h2; simp [Memory.read, Ne.symm h]
    · simp only [Memory.read, ih]

/-- A write at or above the bound keeps the list rising from it. -/
theorem Memory.sortedFrom_write (m : Memory) (lo i : Nat) (b : Byte) (hlo : lo ≤ i)
    (hi : i < Config.ibufSize) (h : m.sortedFrom lo = true) : (m.write i b).sortedFrom lo = true := by
  induction m generalizing lo with
  | nil => simp [Memory.write, Memory.sortedFrom, hlo, hi]
  | cons c m ih =>
    obtain ⟨a, x⟩ := c
    simp only [Memory.sortedFrom, Bool.and_eq_true, decide_eq_true_eq] at h
    obtain ⟨⟨h1, h2⟩, h3⟩ := h
    rw [Memory.write]
    split_ifs with c1 c2
    · simp only [Memory.sortedFrom, Bool.and_eq_true, decide_eq_true_eq]
      exact ⟨⟨hlo, hi⟩, ⟨c1, h2⟩, h3⟩
    · subst c2
      simp only [Memory.sortedFrom, Bool.and_eq_true, decide_eq_true_eq]
      exact ⟨⟨hlo, hi⟩, h3⟩
    · simp only [Memory.sortedFrom, Bool.and_eq_true, decide_eq_true_eq]
      exact ⟨⟨h1, h2⟩, ih (a + 1) (by omega) h3⟩

/-- The one operation that changes IBUF keeps its canonical form (20_memory.md R52: every 16-bit index is
legal). -/
theorem Memory.write_wf (m : Memory) (i : Index) (b : Byte) (h : m.wf = true) :
    (m.write i.toNat b).wf = true :=
  Memory.sortedFrom_write m 0 i.toNat b (Nat.zero_le _) i.isLt h

end Sys2Proof.Machine
end

