-- ==== Sys2Proof/Laws/Operands.lean ====
section
/-! SUPPORT. The small facts of operand reading and of the datapath units. -/

namespace Sys2Proof.Machine

@[simp] theorem operand_length (s : State) (n : Nat) : (operand s n).length = n := by
  simp [operand]

theorem operand_getElem (s : State) (n i : Nat) (h : i < n) :
    (operand s n)[i]'(by simpa using h) = operandByte s i := by
  simp [operand]

theorem operand_getElem? (s : State) (n i : Nat) (h : i < n) :
    (operand s n)[i]? = some (operandByte s i) := by
  simp [operand, h]

/-- The operand depends on nothing but the entries below its length. -/
theorem operand_congr (s t : State) (n : Nat) (h : ∀ i, i < n → operandByte s i = operandByte t i) :
    operand s n = operand t n :=
  List.map_congr_left fun i hi => h i (List.mem_range.mp hi)

/-- A written entry is read as the byte written there. -/
theorem operandByte_written (s : State) (i : Nat) (b : Byte) (h : s.ibuf.read i = some b) :
    operandByte s i = b := by
  simp [operandByte, h]

/-- An unwritten entry is read as the free byte of that read. -/
theorem operandByte_unwritten (s : State) (i : Nat) (h : s.ibuf.read i = none) :
    operandByte s i = Config.unwrittenByte (s.draws + i) := by
  simp [operandByte, h]

@[simp] theorem le_nil : le [] = 0 := rfl

theorem le_cons (b : Byte) (bs : List Byte) : le (b :: bs) = b.toNat + 256 * le bs := rfl

/-- The bytes of a longer sequence stand above those of the shorter. -/
theorem le_append (as bs : List Byte) : le (as ++ bs) = le as + 2 ^ (8 * as.length) * le bs := by
  induction as with
  | nil => simp
  | cons a as ih =>
    rw [List.cons_append, le_cons, ih, le_cons, List.length_cons, show 8 * (as.length + 1) = 8 * as.length + 8 by ring,
      Nat.pow_add]
    ring

theorem pad_length (bs : List Byte) (f : Byte) : (pad bs f).length = 8 := by
  simp [pad, Config.padBytes]

@[simp] theorem strip0_nil : strip0 [] = [] := rfl

theorem strip0_zero (bs : List Byte) : strip0 (0 :: bs) = strip0 bs := by
  simp [strip0]

theorem strip0_nonzero (b : Byte) (bs : List Byte) (h : b ≠ 0) : strip0 (b :: bs) = b :: strip0 bs := by
  rw [strip0, if_neg h]

end Sys2Proof.Machine
end

