-- ==== Sys2Proof/Laws/PerInstr.lean ====
section
/-! SUPPORT. The family of statements about the instructions as syntax: each encodes to its row of the opcode table. -/

namespace Sys2Proof.Laws

/-- The encoding of an instruction meets its row's mask and match in spec/opcode_table.json, and a well-formed
instruction's LEN bits are its length (30_encoding.md R70, R75). -/
def TableRow.Statement (i : Instr) : Prop :=
  encode i &&& 0xFF0000FF#32 = i.opBits.setWidth 32 ∧
  (i.WellFormed → (lenField (encode i)).toNat = i.len)

/-- The bits of a command word put together from its fields. -/
theorem encode_parts (n : BitVec 16) (op : BitVec 3) :
    (0#8 ++ n ++ 0#5 ++ op) &&& 0xFF0000FF#32 = op.setWidth 32 ∧
    lenField (0#8 ++ n ++ 0#5 ++ op) = n := by
  constructor
  · have e : (0xFF0000FF#32) = (0xFF#8 ++ 0#16 ++ 0x1F#5 ++ 7#3) := rfl
    rw [e, BitVec.and_append, BitVec.and_append, BitVec.and_append]
    have h3 : op &&& 7#3 = op := by
      have := BitVec.and_allOnes (x := op); simpa using this
    rw [h3]
    ext i hi
    simp
    grind
  · unfold lenField
    ext i hi
    simp
    grind

/-- A length that fits 16 bits is its own LEN field. -/
theorem len_ofNat (n : Nat) (h : n ≤ Config.maxLen) : (BitVec.ofNat 16 n).toNat = n := by
  simp only [Config.maxLen] at h
  simp only [BitVec.toNat_ofNat]
  omega

theorem TableRow.ds64 (len : Nat) : TableRow.Statement (.ds64 len) :=
  ⟨(encode_parts _ _).1, fun h => by rw [encode, (encode_parts _ _).2]; exact len_ofNat _ h⟩

theorem TableRow.du64 (len : Nat) : TableRow.Statement (.du64 len) :=
  ⟨(encode_parts _ _).1, fun h => by rw [encode, (encode_parts _ _).2]; exact len_ofNat _ h⟩

theorem TableRow.du16 (len : Nat) : TableRow.Statement (.du16 len) :=
  ⟨(encode_parts _ _).1, fun h => by rw [encode, (encode_parts _ _).2]; exact len_ofNat _ h⟩

theorem TableRow.du32 (len : Nat) : TableRow.Statement (.du32 len) :=
  ⟨(encode_parts _ _).1, fun h => by rw [encode, (encode_parts _ _).2]; exact len_ofNat _ h⟩

theorem TableRow.dtxt (len : Nat) : TableRow.Statement (.dtxt len) :=
  ⟨(encode_parts _ _).1, fun h => by rw [encode, (encode_parts _ _).2]; exact len_ofNat _ h⟩

end Sys2Proof.Laws
end

