-- ==== Sys2Proof/Laws/Words.lean ====
section
/-! SUPPORT. Command words, STATUS and ERRINFO as numbers, and everything the decoder can answer. -/

namespace Sys2Proof.Machine

/-- The number of two bit strings put together. -/
theorem append_toNat {n m : Nat} (a : BitVec n) (b : BitVec m) :
    (a ++ b).toNat = a.toNat * 2 ^ m + b.toNat := by
  rw [BitVec.toNat_append, Nat.shiftLeft_eq, Nat.mul_comm, ← Nat.two_pow_add_eq_or_of_lt b.isLt]

/-- A STATUS word as a number. -/
theorem statusWord_toNat (k : Kind) (fn : BitVec 3) (n : Nat) (h : n ≤ 65535) :
    (statusWord k fn n).toNat = 1 + 2 * k.code.toNat + 8 * fn.toNat + 256 * n := by
  unfold statusWord
  simp only [append_toNat, BitVec.toNat_ofNat]
  omega

/-- An ERRINFO word as a number. -/
theorem errinfoWord_toNat (r lo hi : Nat) (h1 : r ≤ 65535) (h2 : lo ≤ 65535) (h3 : hi ≤ 65535) :
    (errinfoWord r lo hi).toNat = r + 2 ^ 16 * lo + 2 ^ 32 * hi := by
  unfold errinfoWord
  simp only [append_toNat, BitVec.toNat_ofNat]
  omega

/-- `respond` leaves exactly its response in the registers. -/
theorem respond_holds (r : Response) (s : State) (ht : r.text.length ≤ 65535) (h1 : r.received ≤ 65535)
    (h2 : r.lo ≤ 65535) (h3 : r.hi ≤ 65535) :
    HoldsResponse (respond r s) r.kind.code.toNat r.fn.toNat r.received r.lo r.hi r.value r.text :=
  ⟨statusWord_toNat _ _ _ ht, errinfoWord_toNat _ _ _ h1 h2 h3, rfl, rfl⟩

/-- The command word of a well-formed instruction as a number (30_encoding.md R70). -/
theorem encode_toNat (i : Instr) (h : i.WellFormed) : (encode i).toNat = i.len * 256 + i.opBits.toNat := by
  have hl : i.len ≤ 65535 := h
  unfold encode
  simp only [append_toNat, BitVec.toNat_ofNat]
  omega

/-- The fields of a command word as numbers. -/
theorem wordFields_toNat (c : Command) :
    (opField c).toNat = wordOp c ∧ (lenField c).toNat = wordLen c ∧
    (z1Field c).toNat = c.toNat / 2 ^ 3 % 2 ^ 5 ∧ (z2Field c).toNat = c.toNat / 2 ^ 24 := by
  have := c.isLt
  simp [opField, lenField, z1Field, z2Field, BitVec.extractLsb'_toNat, Nat.shiftRight_eq_div_pow, wordOp, wordLen]
  omega

/-- The decoder over the fields as numbers. -/
theorem decode_by_fields (c : Command) :
    decode c =
      if ¬ c.toNat / 2 ^ 3 % 2 ^ 5 = 0 then .error .z1NotZero
      else if ¬ c.toNat / 2 ^ 24 = 0 then .error .z2NotZero
      else match wordOp c with
        | 1 => .ok (.ds64 (wordLen c))
        | 2 => .ok (.du64 (wordLen c))
        | 3 => .ok (.du16 (wordLen c))
        | 4 => .ok (.du32 (wordLen c))
        | 5 => .ok (.dtxt (wordLen c))
        | _ => .error .reservedOp := by
  obtain ⟨h1, h2, h3, h4⟩ := wordFields_toNat c
  have z1 : z1Field c ≠ 0 ↔ ¬ c.toNat / 2 ^ 3 % 2 ^ 5 = 0 := by rw [← h3]; simp [← BitVec.toNat_inj]
  have z2 : z2Field c ≠ 0 ↔ ¬ c.toNat / 2 ^ 24 = 0 := by rw [← h4]; simp [← BitVec.toNat_inj]
  unfold decode
  refine if_congr z1 rfl (if_congr z2 rfl ?_)
  generalize (opField c).toNat = a at h1 ⊢
  generalize (lenField c).toNat = b at h2 ⊢
  subst h1 h2
  exact rfl

/-- A legal word decodes to the instruction that OP names with length LEN. -/
theorem decode_legal (c : Command) (h : LegalWord c) :
    (wordOp c = 1 ∧ decode c = .ok (.ds64 (wordLen c))) ∨ (wordOp c = 2 ∧ decode c = .ok (.du64 (wordLen c))) ∨
    (wordOp c = 3 ∧ decode c = .ok (.du16 (wordLen c))) ∨ (wordOp c = 4 ∧ decode c = .ok (.du32 (wordLen c))) ∨
    (wordOp c = 5 ∧ decode c = .ok (.dtxt (wordLen c))) := by
  have hs := decode_by_fields c
  obtain ⟨a, b, d, e⟩ := h
  rw [if_neg (by simpa using a), if_neg (by simpa using b)] at hs
  have : wordOp c = 1 ∨ wordOp c = 2 ∨ wordOp c = 3 ∨ wordOp c = 4 ∨ wordOp c = 5 := by
    simp only [wordOp]; omega
  rcases this with h | h | h | h | h <;> simp [h] at hs ⊢ <;> exact hs

end Sys2Proof.Machine
end

