-- ==== Sys2Proof/Tests/Slice0.lean ====
section
/-! SUPPORT. Tests from the spec's own vectors (95_test_vectors.md), and a witness for every hypothesis of the
statements. -/

namespace Sys2Proof.Tests

open Sys2Proof Sys2Proof.Machine

/-! ### Helpers -/

/-- The reset state with bytes in IBUF from index 0 upward. -/
def loaded (bs : List Byte) : State := { State.reset with ibuf := bs.zipIdx.map fun p => (p.2, p.1) }

/-- The value, STATUS, ERRINFO and TEXT of a next state. -/
def response (o : Host.Outcome State Fault Refusal) :
    Option (BitVec 64 × BitVec 32 × BitVec 64 × List Byte) :=
  match o with
  | .next t => some (t.value, t.status, t.errinfo, t.text)
  | _ => none

/-! ### Well-formedness: the one check, for each constructor -/

theorem test_wellFormed_refuses_65536 :
    ¬ (Instr.ds64 65536).WellFormed ∧ ¬ (Instr.du64 65536).WellFormed ∧ ¬ (Instr.du16 65536).WellFormed ∧
    ¬ (Instr.du32 65536).WellFormed ∧ ¬ (Instr.dtxt 65536).WellFormed := by decide

/-! ### Decoding: words written out from the pattern 00000000LLLLLLLLLLLLLLLL00000ooo of 30_encoding.md R70 -/

theorem test_decode_ds64 : decodeTableWord 32 0b00000000000000000000001100000001 = some (.ds64 3) := by decide
theorem test_decode_du64 : decodeTableWord 32 0b00000000000000000000100000000010 = some (.du64 8) := by decide
theorem test_decode_du16 : decodeTableWord 32 0b00000000000000000000001000000011 = some (.du16 2) := by decide
theorem test_decode_du32 : decodeTableWord 32 0b00000000000000000000010000000100 = some (.du32 4) := by decide
theorem test_decode_dtxt : decodeTableWord 32 0b00000000111111111111111100000101 = some (.dtxt 65535) := by decide

/-- I1, I3, I5, I7 of section 2.5: reserved OP, Z1, Z2. -/
theorem test_decode_illegal :
    decode 0x00000000#32 = .error .reservedOp ∧ decode 0x00000306#32 = .error .reservedOp ∧
    decode 0x00000309#32 = .error .z1NotZero ∧ decode 0x01000301#32 = .error .z2NotZero := ⟨rfl, rfl, rfl, rfl⟩

theorem test_encode_words :
    encode (.ds64 3) = 0x00000301#32 ∧ encode (.du64 3) = 0x00000302#32 ∧ encode (.du16 2) = 0x00000203#32 ∧
    encode (.du32 4) = 0x00000404#32 ∧ encode (.dtxt 7) = 0x00000705#32 := by decide

/-! ### Instructions: section 1 (S), section 2 (V, F, X, E) -/

/-- S1. -/
theorem test_ds64_sign_extends : response (exec (.ds64 3) (loaded [0x14, 0x15, 0xFF])) =
    some (0xFFFFFFFFFFFF1514, 0x00000009, 0x0000000800010003, []) := by decide
/-- V9: the sign comes from the last byte alone. -/
theorem test_ds64_first_byte_is_no_sign : response (exec (.ds64 2) (loaded [0x80, 0x00])) =
    some (0x0000000000000080, 0x00000009, 0x0000000800010002, []) := by decide
/-- S2. -/
theorem test_du64_zero_extends : response (exec (.du64 3) (loaded [0x14, 0x15, 0xFF])) =
    some (0x0000000000FF1514, 0x00000011, 0x0000000800010003, []) := by decide
/-- E5, over an IBUF that nothing has written. -/
theorem test_du64_nine_bytes_fail : response (exec (.du64 9) State.reset) =
    some (0, 0x00000013, 0x0000000800010009, []) := by decide
/-- S3. -/
theorem test_du16_two_bytes : response (exec (.du16 2) (loaded [0xF6, 0xC9])) =
    some (0x000000000000C9F6, 0x00000019, 0x0000000200020002, []) := by decide
/-- E10: a longer operand is not truncated. -/
theorem test_du16_four_bytes_fail : response (exec (.du16 4) (loaded [0xF6, 0xC9, 0xC9, 0x00])) =
    some (0, 0x0000001B, 0x0000000200020004, []) := by decide
/-- S4. -/
theorem test_du32_four_bytes : response (exec (.du32 4) (loaded [0xF6, 0xC9, 0xC9, 0x00])) =
    some (0x0000000000C9C9F6, 0x00000021, 0x0000000400040004, []) := by decide
/-- F6: no sign extension. -/
theorem test_du32_all_ones : response (exec (.du32 4) (loaded [0xFF, 0xFF, 0xFF, 0xFF])) =
    some (0x00000000FFFFFFFF, 0x00000021, 0x0000000400040004, []) := by decide
/-- S5: an odd length. -/
theorem test_dtxt_test : response (exec (.dtxt 7) (loaded [0x74, 0x00, 0x65, 0x00, 0x73, 0x00, 0x74])) =
    some (0, 0x00000429, 0x0000FFFF00010007, [0x74, 0x65, 0x73, 0x74]) := by decide
/-- X6: zeros go by value, not by position. -/
theorem test_dtxt_strips_by_value : response (exec (.dtxt 3) (loaded [0x00, 0x41, 0x00])) =
    some (0, 0x00000129, 0x0000FFFF00010003, [0x41]) := by decide

/-! ### Host actions -/

/-- I6: the illegal word 0x00000381 as the next fetched word. -/
theorem test_illegal_word_response : response (step (State.reset.withFetchWord 32 0x00000381)) =
    some (0, 0x0000000F, 0x0000000000000003, []) := by decide

/-- S3 through the fetch. -/
theorem test_fetched_word_runs : response (step ((loaded [0xF6, 0xC9]).withFetchWord 32 0x00000203)) =
    some (0x000000000000C9F6, 0x00000019, 0x0000000200020002, []) := by decide

/-- X1, then RDO 0 and RDO 1: the port is masked by OLEN (W15). -/
theorem test_obuf_masked :
    obufByte { loaded [0x41] with status := 0x00000129, text := [0x41] } 0 = 0x41 ∧
    obufByte { loaded [0x41] with status := 0x00000129, text := [0x41] } 1 = 0x00 := by decide

/-- H5: the later write wins. -/
theorem test_later_write_wins :
    (hostWriteIbuf 0 0x2B (hostWriteIbuf 0 0x2A State.reset)).ibuf = [(0, 0x2B)] := by decide

/-- An entry nothing has written is read as the free byte of that read, whatever it is (U2). -/
theorem test_unwritten_entry_is_free : operand State.reset 1 = [Config.unwrittenByte 0] := rfl

/-- RDT of section 3, P3: STATUS, then OLEN bytes. -/
theorem test_rdt_expansion : Line.rdt.actions { loaded [] with status := 0x00000229 } =
    [.readReg .status, .readObuf 0, .readObuf 1] := by decide

/-! ### Witnesses: a concrete case for the hypotheses of each statement that has some -/

/-- DecodeOfEncodeIsTheInstruction: the boundary lengths. -/
theorem witness_wellFormed : (Instr.ds64 0).WellFormed ∧ (Instr.dtxt 65535).WellFormed := by decide

/-- EncodeOfDecodedIsTheWord. -/
theorem witness_decodes : decode 0x00FFFF05#32 = .ok (.dtxt 65535) := rfl

/-- WordsDecodeExactlyByMaskAndMatch: both sides of each equivalence at the boundary words. -/
theorem witness_mask_words :
    decode 0x00000001#32 = .ok (.ds64 0) ∧ decode 0x00FFFF02#32 = .ok (.du64 65535) ∧
    decode 0x00000003#32 = .ok (.du16 0) ∧ decode 0x00FFFF04#32 = .ok (.du32 65535) ∧
    decode 0x00000005#32 = .ok (.dtxt 0) ∧ ¬ LegalWord 0x00000006#32 := ⟨rfl, rfl, rfl, rfl, rfl, by decide⟩

/-- NonzeroReservedBitsAreIllegal: Z1 alone at its two end bits, Z2 alone at its two end bits (I5 to I8). -/
theorem witness_reserved_bits :
    (0x00000309#32 : Command).toNat / 2 ^ 3 % 2 ^ 5 ≠ 0 ∧ (0x00000381#32 : Command).toNat / 2 ^ 3 % 2 ^ 5 ≠ 0 ∧
    (0x01000301#32 : Command).toNat / 2 ^ 24 ≠ 0 ∧ (0x80000203#32 : Command).toNat / 2 ^ 24 ≠ 0 := by decide

/-- StepRunsTheDecodedCommand: a legal and an illegal word at the head of the queue. -/
theorem witness_step :
    (State.reset.withFetchWord 32 0x00000301).pending = .issue 0x00000301#32 :: [] ∧
    decode 0x00000301#32 = .ok (.ds64 3) ∧
    (State.reset.withFetchWord 32 0x00000307).pending = .issue 0x00000307#32 :: [] ∧
    decode 0x00000307#32 = .error .reservedOp := ⟨rfl, rfl, rfl, rfl⟩

/-- QueuedActionsHappenInOrder: an action that goes on, and an idle host. -/
theorem witness_queue :
    (∃ t, perform (.writeIbuf 0 0x2A) ({ State.reset with pending := [.reset] } : State) = .next t) ∧
    State.reset.pending = [] := ⟨⟨_, rfl⟩, rfl⟩

/-- The clauses of the two variable-width statements at the ends of their ranges. -/
theorem witness_varwidth_clauses :
    (1 ≤ 1 ∧ 1 ≤ 8) ∧ (1 ≤ 8 ∧ 8 ≤ 8) ∧ (0 = 0 ∨ 8 < 0) ∧ (9 = 0 ∨ 8 < 9) ∧ (65535 = 0 ∨ 8 < 65535) := by decide

/-- The clauses of the two fixed-width statements beside their one length. -/
theorem witness_fixedwidth_clauses : (2 = 2 ∧ 1 ≠ 2 ∧ 3 ≠ 2 ∧ 0 ≠ 2) ∧ (4 = 4 ∧ 3 ≠ 4 ∧ 5 ≠ 4 ∧ 65535 ≠ 4) := by decide

/-- The clauses of DTXT's statement at the ends of their ranges. -/
theorem witness_dtxt_clauses : 1 ≤ 1 ∧ 1 ≤ 65535 ∧ 65535 ≤ 65535 ∧ 0 = 0 := by decide

/-- IllegalWordsAnswerIllegalCommand: I1 and I10. -/
theorem witness_illegal_words : ¬ LegalWord 0x00000000#32 ∧ ¬ LegalWord 0xFFFFFFFF#32 := by decide

/-- OperandIsTheWrittenBytes and WrittenOperandFixesTheResponse: a written operand and a command over it. -/
theorem witness_operand_written :
    OperandWritten (loaded [0xF6, 0xC9]) 2 ∧ wordLen 0x00000203#32 = 2 ∧
    ∃ t, hostIssue 0x00000203#32 (loaded [0xF6, 0xC9]) = .next t := by
  refine ⟨?_, by decide, _, rfl⟩
  unfold OperandWritten
  decide

/-- Each outcome of KindFollowsTheOrderOfChecks, InvalidLengthExactlyOutsideTheRange, EmptyInputExactlyForEmptyText
and FnAndErrinfoComeFromTheWord, at boundary words. -/
theorem witness_kinds :
    (∃ t, hostIssue 0x00000908#32 State.reset = .next t ∧ t.kind = 3) ∧
    (∃ t, hostIssue 0x00000901#32 State.reset = .next t ∧ t.kind = 1) ∧
    (∃ t, hostIssue 0x00000303#32 State.reset = .next t ∧ t.kind = 1) ∧
    (∃ t, hostIssue 0x00000504#32 State.reset = .next t ∧ t.kind = 1) ∧
    (∃ t, hostIssue 0x00000005#32 State.reset = .next t ∧ t.kind = 2) ∧
    (∃ t, hostIssue 0x00000101#32 (loaded [0x7F]) = .next t ∧ t.kind = 0) :=
  ⟨⟨_, rfl, by decide⟩, ⟨_, rfl, by decide⟩, ⟨_, rfl, by decide⟩, ⟨_, rfl, by decide⟩, ⟨_, rfl, by decide⟩,
    ⟨_, rfl, by decide⟩⟩

/-- EveryErrorLeavesTheErrorResponse, ErrorsAreNotSticky and FailingCommandsReadNoOperand: an error of each kind. -/
theorem witness_errors :
    (∃ t, hostIssue 0x00000300#32 State.reset = .next t ∧ t.kind ≠ 0) ∧
    (∃ t, hostIssue 0x00000001#32 State.reset = .next t ∧ t.kind ≠ 0) ∧
    (∃ t, hostIssue 0x00000005#32 State.reset = .next t ∧ t.kind ≠ 0) :=
  ⟨⟨_, rfl, by decide⟩, ⟨_, rfl, by decide⟩, ⟨_, rfl, by decide⟩⟩

/-- ResponseDependsOnWordAndOperandAlone: two states that differ beyond the operand. -/
theorem witness_same_operand :
    (∀ i, i < wordLen 0x00000101#32 → operandByte (loaded [0x7F]) i = operandByte (loaded [0x7F, 0xFF]) i) ∧
    (∃ t, hostIssue 0x00000101#32 (loaded [0x7F]) = .next t) ∧
    ∃ t, hostIssue 0x00000101#32 (loaded [0x7F, 0xFF]) = .next t := ⟨by decide, ⟨_, rfl⟩, ⟨_, rfl⟩⟩

/-- OnlyHostWritesChangeIbuf and DoneIsSetByCommandsAndClearedByReset: an action of each class. -/
theorem witness_actions :
    (∃ t, perform (.readReg .status) (loaded [1]) = .next t) ∧
    (∀ i b, HostAction.readReg .status ≠ .writeIbuf i b) ∧ HostAction.readReg .status ≠ .reset ∧
    (∀ c, HostAction.readReg .status ≠ .issue c) ∧
    (∃ t, perform (.issue 0#32) State.reset = .next t) ∧ (∃ t, perform .reset (loaded [1]) = .next t) :=
  ⟨⟨_, rfl⟩, by simp, by simp, by simp, ⟨_, rfl⟩, ⟨_, rfl⟩⟩

/-- HostWriteSetsOneEntry: an entry other than the one written, at both ends of IBUF. -/
theorem witness_other_entry : 0 ≠ (65535#16 : Index).toNat ∧ 65535 ≠ (0#16 : Index).toNat := by decide

/-- LaterWriteWinsAndOthersCommute: a canonical IBUF and two entries. -/
theorem witness_two_entries : (loaded [1, 2]).ibuf.wf = true ∧ (0#16 : Index) ≠ 65535#16 := by decide

/-- A state with text output: after X1. -/
def afterX1 : State :=
  { loaded [0x41] with status := 0x00000129, errinfo := 0x0000FFFF00010001, text := [0x41] }

/-- TextReadsAreMaskedByOlen and StepKeepsTheInvariants: a state with text that meets the invariants, indices on
both sides of OLEN, and a step from it. -/
theorem witness_invariants :
    afterX1.Inv ∧ (0#16 : Index).toNat < afterX1.olen ∧ afterX1.olen ≤ (1#16 : Index).toNat ∧
    ∃ t, step (afterX1.withFetchWord 32 0x00000105) = .next t := by
  refine ⟨?_, by decide, by decide, _, rfl⟩
  constructor <;> decide

/-- ReachableStatesMeetTheInvariants: a state reached by a command. -/
theorem witness_reachable : ∃ t, perform (.issue 0x00000001#32) State.reset = .next t ∧ Reachable t :=
  ⟨_, rfl, Reachable.act (.issue 0x00000001#32) _ _ Reachable.reset rfl⟩

/-- OnlyCommandsAndResetChangeTheResponse: a write, a register read and a text read. -/
theorem witness_harmless_actions :
    (∀ a ∈ [HostAction.writeIbuf 0 1, .readReg .value, .readObuf 0], (∀ c, a ≠ .issue c) ∧ a ≠ .reset) ∧
    ∃ t : State, Sys2Proof.core.run 3
      ({ State.reset with pending := [.writeIbuf 0 1, .readReg .value, .readObuf 0] ++ [] } : State) = .next t := by
  exact ⟨by simp, _, rfl⟩

/-- The statements over one operand of 1 to 8 bytes: both ends, and both signs of the last byte. -/
theorem witness_operand_lengths :
    (1 ≤ [(0x80 : Byte)].length ∧ [(0x80 : Byte)].length ≤ 8) ∧
    (1 ≤ (List.replicate 8 (0xFF : Byte)).length ∧ (List.replicate 8 (0xFF : Byte)).length ≤ 8) ∧
    ([(0x80 : Byte)].length < 8 ∧ ([(0x80 : Byte)].getD 0 0).getLsbD 7 = true) ∧
    ([(0x7F : Byte)].getD 0 0).getLsbD 7 = false := by decide

/-- Ds64CoversItsSignedRangeOnce and Du64CoversItsUnsignedRangeOnce: the ends of the ranges for one byte (V2, V3). -/
theorem witness_ranges :
    (-2 ^ (8 * 1 - 1) ≤ (-128 : Int) ∧ (-128 : Int) ≤ 2 ^ (8 * 1 - 1) - 1) ∧
    (-2 ^ (8 * 1 - 1) ≤ (127 : Int) ∧ (127 : Int) ≤ 2 ^ (8 * 1 - 1) - 1) ∧ 255 ≤ 2 ^ (8 * 1) - 1 ∧
    (ds64Value [0x80]).toInt = -128 ∧ (ds64Value [0x7F]).toInt = 127 ∧ (du64Value [0xFF]).toNat = 255 := by decide

/-- ShorterOperandIsTheLowPart: two lengths, and the IBUF of the rule's example. -/
theorem witness_mixed_width : 2 < 4 ∧
    (loaded [0xF6, 0xC9, 0xC9, 0x00]).ibuf.read 0 = some 0xF6 ∧
    (loaded [0xF6, 0xC9, 0xC9, 0x00]).ibuf.read 1 = some 0xC9 ∧
    (loaded [0xF6, 0xC9, 0xC9, 0x00]).ibuf.read 2 = some 0xC9 ∧
    (loaded [0xF6, 0xC9, 0xC9, 0x00]).ibuf.read 3 = some 0x00 := by decide

/-- AsciiTextComesOutAsItsLowBytes: X5's "Hi" with its last high byte and without it. -/
theorem witness_ascii :
    (∀ c ∈ [(0x48 : Byte), 0x69], 0x01 ≤ c.toNat ∧ c.toNat ≤ 0x7F) ∧
    operand (loaded [0x48, 0x00, 0x69, 0x00]) 4 = [(0x48 : Byte), 0x69].flatMap (fun c => [c, 0x00]) ∧
    operand (loaded [0x48, 0x00, 0x69]) 3 = ([(0x48 : Byte), 0x69].flatMap (fun c => [c, 0x00])).dropLast := by decide

/-- LoadedBytesAreTheOperand and CallsComputeTheDocumentsFunctions: the least and the greatest slice. -/
theorem witness_slices : ([] : List Byte).length ≤ 65535 ∧ (List.replicate 65535 (0x41 : Byte)).length ≤ 65535 :=
  ⟨Nat.zero_le _, List.length_replicate.le⟩

end Sys2Proof.Tests
end

