-- ==== Sys2Proof/Proofs/Scope.lean ====
section
/-! PROOFS. The statements of 00_scope.md: the little-endian value (R9), and what a response depends on (R14). -/

namespace Sys2Proof.Machine

/-! ### The little-endian value -/

/-- Each byte multiplies the bound by 256 = 2^8. -/
theorem le_lt_two_pow (bs : List Byte) : le bs < 2 ^ (8 * bs.length) := by
  induction bs with
  | nil => simp
  | cons b bs ih =>
    have hb := b.isLt
    rw [le_cons, List.length_cons, Nat.mul_succ, Nat.pow_add]
    omega

/-- The recursion of `le` is Horner's scheme for the sum of R9: the first byte is the term of index 0, and every
later term carries one more factor 256. -/
theorem le_eq_sum (bs : List Byte) :
    le bs = ∑ i ∈ Finset.range bs.length, (bs.getD i 0).toNat * 256 ^ i := by
  induction bs with
  | nil => rfl
  | cons b bs ih =>
    rw [le_cons, ih, List.length_cons, Finset.sum_range_succ', Finset.mul_sum, Nat.add_comm]
    congr 1
    · refine Finset.sum_congr rfl fun i _ => ?_
      rw [List.getD_cons_succ, Nat.pow_succ]
      ring
    · simp

/-! ### What a response depends on -/

/-- The registers a response is written to do not depend on the state it is written over. -/
theorem respond_sameResponse (r : Response) (s s' : State) : SameResponse (respond r s) (respond r s') :=
  ⟨rfl, rfl, rfl, rfl⟩

theorem raiseError_sameResponse (k : Kind) (fn : BitVec 3) (received lo hi : Nat) (s s' : State) :
    SameResponse (raiseError k fn received lo hi s) (raiseError k fn received lo hi s') :=
  respond_sameResponse _ s s'

/-- A length that passes its check: the operand is read and answered. -/
theorem command_of_fwv (op : Op) (len : Nat) (finish : List Byte → BitVec 64 × List Byte) (s : State)
    (h : fwv op len = true) :
    command op len finish s =
      respond ⟨.none, op.code, len, op.lengthRule.lo, op.lengthRule.hi, (finish (operand s len)).1,
        (finish (operand s len)).2⟩ (s.afterRead len) :=
  if_pos h

/-- A length that fails its check: the operation's one length error. -/
theorem command_of_not_fwv (op : Op) (len : Nat) (finish : List Byte → BitVec 64 × List Byte) (s : State)
    (h : ¬ fwv op len = true) :
    command op len finish s =
      raiseError op.lengthRule.kind op.code len op.lengthRule.lo op.lengthRule.hi s :=
  if_neg h

/-- The length check reads no state, and beyond it a command uses the state through its operand alone. -/
theorem command_sameResponse (op : Op) (len : Nat) (finish : List Byte → BitVec 64 × List Byte) (s s' : State)
    (h : operand s len = operand s' len) : SameResponse (command op len finish s) (command op len finish s') := by
  by_cases hv : fwv op len = true
  · rw [command_of_fwv _ _ _ _ hv, command_of_fwv _ _ _ _ hv, h]
    exact respond_sameResponse _ _ _
  · rw [command_of_not_fwv _ _ _ _ hv, command_of_not_fwv _ _ _ _ hv]
    exact raiseError_sameResponse _ _ _ _ _ s s'

/-- The length of a decoded instruction is the word's LEN (30_encoding.md R72). -/
theorem len_of_decode (c : Command) (i : Instr) (h : decode c = .ok i) : i.len = wordLen c := by
  rw [decode_by_fields] at h
  split_ifs at h
  split at h <;> cases h <;> rfl

theorem hostIssue_of_decode_ok (c : Command) (i : Instr) (s : State) (h : decode c = .ok i) :
    hostIssue c s = .next (command (instrOp i) i.len (instrFinish i) s) := by
  simp only [hostIssue, h, exec_eq_command]

theorem hostIssue_of_decode_error (c : Command) (e : IllegalWord) (s : State) (h : decode c = .error e) :
    hostIssue c s = .next (raiseError .illegalCommand (opField c) (lenField c).toNat 0 0 s) := by
  simp only [hostIssue, h, illegalCommand]

/-- One command over two states: the decoder sees the word alone, so both run the same instruction or get the same
IllegalCommand response. -/
theorem hostIssue_sameResponse (c : Command) (s s' t t' : State)
    (hop : operand s (wordLen c) = operand s' (wordLen c))
    (ht : hostIssue c s = .next t) (ht' : hostIssue c s' = .next t') : SameResponse t t' := by
  cases hd : decode c with
  | ok i =>
    rw [hostIssue_of_decode_ok c i _ hd] at ht ht'
    cases ht
    cases ht'
    rw [← len_of_decode c i hd] at hop
    exact command_sameResponse _ _ _ s s' hop
  | error e =>
    rw [hostIssue_of_decode_error c e _ hd] at ht ht'
    cases ht
    cases ht'
    exact raiseError_sameResponse _ _ _ _ _ s s'

/-! ### The statements -/

/-- Settles O24: equal operand bytes below LEN are equal operands, and a command's response uses no more. -/
theorem responseDependsOnWordAndOperandAlone : Obligations.ResponseDependsOnWordAndOperandAlone := by
  unfold Obligations.ResponseDependsOnWordAndOperandAlone
  intro c s s' t t' hbytes ht ht'
  exact hostIssue_sameResponse c s s' t t' (operand_congr s s' (wordLen c) hbytes) ht ht'

/-- Settles O39, from the sum and the bound, each by induction on the byte sequence. -/
theorem littleEndianValueIsTheSum : Obligations.LittleEndianValueIsTheSum := by
  unfold Obligations.LittleEndianValueIsTheSum
  exact fun bs => ⟨le_eq_sum bs, le_nil, le_lt_two_pow bs⟩

end Sys2Proof.Machine
end

