-- ==== Sys2Proof/Proofs/State.lean ====
section
/-! PROOFS. The statements of 10_state.md: what a command writes of STATUS and ERRINFO (R29, R31, R35), who writes
IBUF (R24), and the registers after reset (R41). -/

namespace Sys2Proof.Machine

/-! ### The fields of STATUS and ERRINFO -/

/-- DONE is a bit of STATUS: an action that keeps STATUS keeps it. -/
theorem done_congr (s t : State) (h : t.status = s.status) : t.done = s.done :=
  congrArg (·.getLsbD 0) h

/-- The fields of a zero STATUS (10_state.md R28). -/
theorem fields_of_status_zero (s : State) (h : s.status = 0) :
    s.done = false ∧ s.kind = 0 ∧ s.fn = 0 ∧ s.olen = 0 := by
  simp [State.done, State.kind, State.fn, State.olen, h]

/-- The fields of a zero ERRINFO (10_state.md R34). -/
theorem fields_of_errinfo_zero (s : State) (h : s.errinfo = 0) :
    s.received = 0 ∧ s.expLo = 0 ∧ s.expHi = 0 := by
  simp [State.received, State.expLo, State.expHi, h]

/-! ### What a command word fixes -/

/-- A word that decodes is legal, and its OP field is the function identifier of the instruction (10_state.md R31,
30_encoding.md R75). -/
theorem legalWord_of_decode_ok (c : Command) (i : Instr) (h : decode c = .ok i) :
    LegalWord c ∧ (instrOp i).code.toNat = wordOp c := by
  rw [decode_by_fields] at h
  split_ifs at h with hz1 hz2
  split at h
  case h_6 => cases h
  all_goals
    next hop =>
      cases h
      exact ⟨⟨by simpa using hz1, by simpa using hz2, by simp only [wordOp] at hop; omega⟩, hop.symm⟩

theorem not_legalWord_of_decode_error (c : Command) (e : IllegalWord) (h : decode c = .error e) : ¬ LegalWord c := by
  intro hl
  rcases decode_legal c hl with ⟨-, hd⟩ | ⟨-, hd⟩ | ⟨-, hd⟩ | ⟨-, hd⟩ | ⟨-, hd⟩ <;> cases h.symm.trans hd

/-- FWV's table holds the range that the OP code names (40_datapath_units.md R91). -/
theorem lengthRule_eq_legalRange (op : Op) : (op.lengthRule.lo, op.lengthRule.hi) = legalRange op.code.toNat := by
  cases op <;> rfl

/-- Both ends of every range fit the 16 bits of their ERRINFO field. -/
theorem legalRange_le (n : Nat) : (legalRange n).1 ≤ 65535 ∧ (legalRange n).2 ≤ 65535 := by
  unfold legalRange
  split <;> decide

/-- What the command word alone fixes of a response: FN and the three numbers of ERRINFO, and how KIND is bound by
them (10_state.md R31, R35). `hostIssue_responds` says that every command's response is of this form. -/
structure Response.FromWord (c : Command) (r : Response) : Prop where
  fn : r.fn.toNat = wordOp c
  received : r.received = wordLen c
  lo : r.lo = if LegalWord c then (legalRange (wordOp c)).1 else 0
  hi : r.hi = if LegalWord c then (legalRange (wordOp c)).2 else 0
  inRange : r.kind = .none → r.lo ≤ r.received ∧ r.received ≤ r.hi
  illegal : ¬ LegalWord c → r.kind = .illegalCommand

/-- The response of a decoded instruction, whatever the outcome of its length check and whatever it computes. -/
theorem Response.fromWord_of_decode_ok (c : Command) (i : Instr) (h : decode c = .ok i) (r : Response)
    (hfn : r.fn = (instrOp i).code) (hrec : r.received = i.len) (hlo : r.lo = (instrOp i).lengthRule.lo)
    (hhi : r.hi = (instrOp i).lengthRule.hi) (hkind : r.kind = .none → fwv (instrOp i) i.len = true) :
    r.FromWord c := by
  obtain ⟨hlegal, hop⟩ := legalWord_of_decode_ok c i h
  have hrange := lengthRule_eq_legalRange (instrOp i)
  rw [hop] at hrange
  exact
    { fn := by rw [hfn, hop]
      received := hrec.trans (len_of_decode c i h)
      lo := by rw [if_pos hlegal, hlo, ← hrange]
      hi := by rw [if_pos hlegal, hhi, ← hrange]
      inRange := fun hk => by rw [hlo, hhi, hrec]; exact (fwv_iff _ _).mp (hkind hk)
      illegal := fun hn => absurd hlegal hn }

/-- The response of an illegal word: plain copies of its OP and LEN bits, and no range (60_exceptions.md R143). -/
theorem Response.fromWord_of_decode_error (c : Command) (e : IllegalWord) (h : decode c = .error e) :
    Response.FromWord c ⟨.illegalCommand, opField c, (lenField c).toNat, 0, 0, 0, []⟩ := by
  have hn := not_legalWord_of_decode_error c e h
  obtain ⟨hop, hlen, -, -⟩ := wordFields_toNat c
  exact
    { fn := hop
      received := hlen
      lo := (if_neg hn).symm
      hi := (if_neg hn).symm
      inRange := nofun
      illegal := fun _ => rfl }

/-! ### What a command does to the state -/

/-- The one length error of an operation is never KIND None. -/
theorem lengthRule_kind_ne_none (op : Op) : op.lengthRule.kind ≠ .none := by
  cases op <;> decide

/-- Every command writes one response, which its word fixes up to KIND, VALUE and TEXT, over a state in which at
most the count of draws moved (40_datapath_units.md R99, R100). -/
theorem hostIssue_responds (c : Command) (s : State) :
    ∃ (r : Response) (d : Nat), hostIssue c s = .next (respond r { s with draws := d }) ∧ r.FromWord c := by
  cases hd : decode c with
  | error e =>
    exact ⟨_, s.draws, hostIssue_of_decode_error c e s hd, Response.fromWord_of_decode_error c e hd⟩
  | ok i =>
    rw [hostIssue_of_decode_ok c i s hd]
    rcases command_cases (instrOp i) i.len (instrFinish i) s with ⟨hv, hc⟩ | ⟨-, hc⟩
    · exact ⟨_, s.draws + i.len, congrArg _ hc,
        Response.fromWord_of_decode_ok c i hd _ rfl rfl rfl rfl fun _ => hv⟩
    · exact ⟨_, s.draws, congrArg _ hc,
        Response.fromWord_of_decode_ok c i hd _ rfl rfl rfl rfl fun hk => absurd hk (lengthRule_kind_ne_none _)⟩

theorem hostIssue_ibuf (c : Command) (s t : State) (h : hostIssue c s = .next t) : t.ibuf = s.ibuf := by
  obtain ⟨r, d, hr, -⟩ := hostIssue_responds c s
  cases hr.symm.trans h
  rfl

theorem hostIssue_done (c : Command) (s t : State) (h : hostIssue c s = .next t) : t.done = true := by
  obtain ⟨r, d, hr, -⟩ := hostIssue_responds c s
  cases hr.symm.trans h
  exact done_of_statusWord _ _ _ _ (respond_status _ _)

theorem Kind.code_eq_zero_iff (k : Kind) : k.code = 0 ↔ k = .none := by
  cases k <;> decide

/-- The numbers that ERRINFO holds for a word's response: each fits its field, so none is cut off. -/
theorem respond_errinfo_fields (c : Command) (r : Response) (s : State) (h : r.FromWord c) :
    (respond r s).received = r.received ∧ (respond r s).expLo = r.lo ∧ (respond r s).expHi = r.hi := by
  obtain ⟨hrec, hlo, hhi⟩ := fields_of_errinfoWord _ _ _ _ (respond_errinfo r s)
  obtain ⟨hlo', hhi'⟩ := legalRange_le (wordOp c)
  have hrb : r.received < 65536 := h.received ▸ Nat.mod_lt _ (by decide)
  have hlb : r.lo < 65536 := by rw [h.lo]; split <;> omega
  have hhb : r.hi < 65536 := by rw [h.hi]; split <;> omega
  exact ⟨hrec.trans (Nat.mod_eq_of_lt hrb), hlo.trans (Nat.mod_eq_of_lt hlb), hhi.trans (Nat.mod_eq_of_lt hhb)⟩

/-! ### The statements -/

/-- Settles O23: a command writes a response of its word, and each field of STATUS and ERRINFO reads back what was
written. A word whose OP is 0, 6 or 7 is illegal, since a legal one has OP 1 to 5. -/
theorem fnAndErrinfoComeFromTheWord : Obligations.FnAndErrinfoComeFromTheWord := by
  unfold Obligations.FnAndErrinfoComeFromTheWord
  intro c s
  obtain ⟨r, d, hr, hw⟩ := hostIssue_responds c s
  have hstatus := respond_status r { s with draws := d }
  have hfn := fn_of_statusWord _ _ _ _ hstatus
  have hkind := kind_of_statusWord _ _ _ _ hstatus
  obtain ⟨hrec, hlo, hhi⟩ := respond_errinfo_fields c r { s with draws := d } hw
  refine ⟨_, hr, ?_, ?_, ?_, ?_, ?_, ?_⟩
  · rw [hfn, hw.fn]
  · rw [hrec, hw.received]
  · rw [hlo, hw.lo]
  · rw [hhi, hw.hi]
  · intro hk
    rw [hrec, hlo, hhi]
    exact hw.inRange ((Kind.code_eq_zero_iff _).mp (hkind.symm.trans hk))
  · intro hop
    have hn : ¬ LegalWord c := by
      rintro ⟨-, -, h1, h5⟩
      simp only [wordOp] at hop
      omega
    rw [hkind, hw.illegal hn]
    rfl

/-- Settles O27, by the cases of a host action: a command and both reads leave IBUF alone. -/
theorem onlyHostWritesChangeIbuf : Obligations.OnlyHostWritesChangeIbuf := by
  unfold Obligations.OnlyHostWritesChangeIbuf
  intro a s t h hwrite hreset
  have hibuf : t.ibuf = s.ibuf := by
    rcases perform_cases a s t h with ⟨i, b, rfl, -⟩ | ⟨c, -, hc⟩ | ⟨r, -, rfl⟩ | ⟨i, -, rfl⟩ | ⟨rfl, -⟩
    · exact absurd rfl (hwrite i b)
    · exact hostIssue_ibuf c s t hc
    · exact hostReadReg_ibuf r s
    · exact hostReadObuf_ibuf i s
    · exact absurd rfl hreset
  exact ⟨hibuf, fun k => by rw [hibuf]⟩

/-- Settles O30, by the cases of a host action: a command writes STATUS with DONE = 1, reset zeroes it, and the other
three keep it. -/
theorem doneIsSetByCommandsAndClearedByReset : Obligations.DoneIsSetByCommandsAndClearedByReset := by
  unfold Obligations.DoneIsSetByCommandsAndClearedByReset
  refine ⟨(fields_of_status_zero _ rfl).1, fun a s t h => ?_⟩
  rcases perform_cases a s t h with ⟨i, b, rfl, rfl⟩ | ⟨c, rfl, hc⟩ | ⟨r, rfl, rfl⟩ | ⟨i, rfl, rfl⟩ | ⟨rfl, rfl⟩
  · exact ⟨nofun, nofun, fun _ _ => done_congr _ _ (hostWriteIbuf_status i b s)⟩
  · exact ⟨fun _ => hostIssue_done c s t hc, nofun, fun hn => absurd rfl (hn c)⟩
  · exact ⟨nofun, nofun, fun _ _ => done_congr _ _ (hostReadReg_status r s)⟩
  · exact ⟨nofun, nofun, fun _ _ => done_congr _ _ (hostReadObuf_status i s)⟩
  · exact ⟨nofun, fun _ => (fields_of_status_zero _ (hostReset_status s)).1, fun _ hn => absurd rfl hn⟩

/-- Settles O34: reset writes zero to all three registers, and every field of a zero register is zero. -/
theorem resetZeroesTheResponse : Obligations.ResetZeroesTheResponse := by
  unfold Obligations.ResetZeroesTheResponse
  refine ⟨⟨rfl, rfl, rfl, rfl⟩, fun s => ?_⟩
  obtain ⟨hdone, hkind, hfn, holen⟩ := fields_of_status_zero _ (hostReset_status s)
  have herrinfo := fields_of_errinfo_zero _ (hostReset_errinfo s)
  exact ⟨hostReset s, rfl, hostReset_value s, hostReset_status s, hostReset_errinfo s, hostReset_text s,
    hdone, hkind, hfn, holen, herrinfo⟩

end Sys2Proof.Machine
end

/-! PROOFS. The statements of 20_memory.md: the host's write to IBUF (R52), and operands of different widths over
the same bytes (R56). -/

namespace Sys2Proof.Machine

/-! ### Operands over one IBUF -/

/-- Every operand starts at index 0 of IBUF, so a shorter one is a prefix of a longer (20_memory.md R53). -/
theorem operand_take (s : State) (m n : Nat) (h : m ≤ n) : (operand s n).take m = operand s m := by
  rw [operand, ← List.map_take, List.take_range, Nat.min_eq_left h, operand]

/-- The first `m` bytes of a sequence are the low `8 m` bits of its value. -/
theorem le_take (bs : List Byte) (m : Nat) (h : m ≤ bs.length) : le (bs.take m) = le bs % 2 ^ (8 * m) := by
  have hlen : (bs.take m).length = m := List.length_take_of_le h
  have hlt : le (bs.take m) < 2 ^ (8 * m) := by simpa only [hlen] using le_lt_two_pow (bs.take m)
  calc le (bs.take m)
      = (le (bs.take m) + 2 ^ (8 * m) * le (bs.drop m)) % 2 ^ (8 * m) := by
        rw [Nat.add_mul_mod_self_left, Nat.mod_eq_of_lt hlt]
    _ = le (bs.take m ++ bs.drop m) % 2 ^ (8 * m) := by rw [le_append, hlen]
    _ = le bs % 2 ^ (8 * m) := by rw [List.take_append_drop]

/-- VALUE after an instruction whose length is legal: what it computes from its operand. -/
theorem exec_value_of_fwv (i : Instr) (s : State) (h : fwv (instrOp i) i.len = true) :
    ∃ t, exec i s = .next t ∧ t.value = (instrFinish i (operand s i.len)).1 := by
  refine ⟨_, exec_eq_command i s, ?_⟩
  rw [command_of_fwv _ _ _ _ h, respond_value]

/-! ### The statements -/

/-- Settles O28: the write is one entry of `Memory.write`, and touches no other field of the state. -/
theorem hostWriteSetsOneEntry : Obligations.HostWriteSetsOneEntry := by
  unfold Obligations.HostWriteSetsOneEntry
  intro i b s
  exact ⟨hostWriteIbuf i b s, rfl, Memory.read_write_same s.ibuf i.toNat b,
    fun k hk => Memory.read_write_other s.ibuf i.toNat k b hk, ⟨rfl, rfl, rfl, rfl⟩, rfl, rfl, rfl⟩

/-- Settles O47: the shorter operand is a prefix of the longer, hence the low part of its value; in the example the
two bytes of DU16 are the prefix of the four of DU32. -/
theorem shorterOperandIsTheLowPart : Obligations.ShorterOperandIsTheLowPart := by
  unfold Obligations.ShorterOperandIsTheLowPart
  refine ⟨fun s m n hmn => ?_, fun s h0 h1 h2 h3 => ?_⟩
  · rw [← operand_take s m n hmn.le]
    exact le_take _ _ (by rw [operand_length]; exact hmn.le)
  · have four : operand s 4 = [0xF6, 0xC9, 0xC9, 0x00] :=
      calc operand s 4 = [operandByte s 0, operandByte s 1, operandByte s 2, operandByte s 3] := rfl
        _ = [0xF6, 0xC9, 0xC9, 0x00] := by
          rw [operandByte_written s 0 _ h0, operandByte_written s 1 _ h1, operandByte_written s 2 _ h2,
            operandByte_written s 3 _ h3]
    have two : operand s 2 = [0xF6, 0xC9] := by
      rw [← operand_take s 2 4 (by decide), four]
      rfl
    obtain ⟨t, ht, hvt⟩ := exec_value_of_fwv (.du16 2) s (by decide)
    obtain ⟨u, hu, hvu⟩ := exec_value_of_fwv (.du32 4) s (by decide)
    refine ⟨t, u, ht, hu, ?_, ?_⟩
    · rw [hvt, Instr.len, two]
      rfl
    · rw [hvu, Instr.len, four]
      rfl

end Sys2Proof.Machine

/-! PROOFS. The statement of 30_encoding.md about the reserved bits of a command word (R73). -/

namespace Sys2Proof.Machine

/-! ### Words with a reserved bit set -/

/-- A legal word has Z1 = 0 and Z2 = 0 (30_encoding.md R73). -/
theorem not_legalWord_of_reserved_ne_zero (c : Command)
    (h : c.toNat / 2 ^ 3 % 2 ^ 5 ≠ 0 ∨ c.toNat / 2 ^ 24 ≠ 0) : ¬ LegalWord c := by
  rintro ⟨hz1, hz2, -⟩
  rcases h with h1 | h2
  · exact h1 hz1
  · exact h2 hz2

/-- The decoder is total, and what it decodes is legal (30_encoding.md R76, R77). -/
theorem decode_error_of_not_legalWord (c : Command) (h : ¬ LegalWord c) : ∃ e, decode c = .error e := by
  cases hd : decode c with
  | ok i => exact absurd (legalWord_of_decode_ok c i hd).1 h
  | error e => exact ⟨e, rfl⟩

/-- KIND after a word that does not decode (60_exceptions.md R143). -/
theorem hostIssue_kind_of_decode_error (c : Command) (e : IllegalWord) (s : State) (h : decode c = .error e) :
    ∃ t, hostIssue c s = .next t ∧ t.kind = 3 :=
  ⟨_, hostIssue_of_decode_error c e s h, kind_of_statusWord _ _ _ _ (raiseError_status ..)⟩

/-! ### The statement -/

/-- Settles O4: a word with a reserved bit set is not legal, so it does not decode, and a word that does not decode
gets the IllegalCommand response. -/
theorem nonzeroReservedBitsAreIllegal : Obligations.NonzeroReservedBitsAreIllegal := by
  unfold Obligations.NonzeroReservedBitsAreIllegal
  intro c s hreserved
  obtain ⟨e, he⟩ := decode_error_of_not_legalWord c (not_legalWord_of_reserved_ne_zero c hreserved)
  exact ⟨⟨e, he⟩, hostIssue_kind_of_decode_error c e s he⟩

end Sys2Proof.Machine

/-! PROOFS. The statements of 40_datapath_units.md: the filler and the padded word (R94, R96, R97), the length
validator (R91), and the procedure Exec (R100). -/

namespace Sys2Proof.Machine

/-! ### SXU: the filler -/

/-- The most significant supplied byte is the one of index n - 1 (40_datapath_units.md R94). -/
theorem msb_eq_getD (bs : List Byte) : msb bs = bs.getD (bs.length - 1) 0 := by
  rw [msb, List.getLastD_eq_getLast?, List.getLast?_eq_getElem?, List.getD_eq_getElem?_getD]

theorem msb_concat (bs : List Byte) (last : Byte) : msb (bs ++ [last]) = last := by
  simp [msb]

theorem bit_seven_iff (b : Byte) : b.getLsbD 7 = true ↔ 128 ≤ b.toNat := by
  have h : b.getLsbD 7 = decide (2 ^ 7 ≤ b.toNat) := (BitVec.msb_eq_getLsbD_last b).symm.trans b.msb_eq_decide
  exact h ▸ decide_eq_true_iff

theorem sxu_eq_ite (op : Op) (b : Byte) : sxu op b = if op = .ds64 ∧ 128 ≤ b.toNat then 0xFF else 0x00 := by
  simp only [sxu, bit_seven_iff]

theorem sxu_of_ne_ds64 (op : Op) (b : Byte) (h : op ≠ .ds64) : sxu op b = 0x00 :=
  if_neg fun hc => h hc.1

theorem sxu_ds64_eq_ff_iff (b : Byte) : sxu .ds64 b = 0xFF ↔ 128 ≤ b.toNat := by
  rw [sxu_eq_ite]
  by_cases h : 128 ≤ b.toNat <;> simp [h]

/-- The last byte stands above all the others, so its bit 7 is the top bit of the whole operand's value. -/
theorem last_ge_iff_le_ge (bs : List Byte) (h : 1 ≤ bs.length) :
    128 ≤ (msb bs).toNat ↔ 2 ^ (8 * bs.length - 1) ≤ le bs := by
  obtain ⟨init, last, rfl⟩ := (List.eq_nil_or_concat' bs).resolve_left (List.ne_nil_of_length_pos h)
  have hexp : 8 * (init ++ [last]).length - 1 = 8 * init.length + 7 := by
    rw [List.length_append, List.length_singleton]; omega
  have hle : le (init ++ [last]) = le init + 2 ^ (8 * init.length) * last.toNat := by
    rw [le_append, le_cons, le_nil, Nat.mul_zero, Nat.add_zero]
  have hinit := le_lt_two_pow init
  rw [msb_concat, hexp, hle, Nat.pow_add]
  constructor
  · intro hlast
    exact (Nat.mul_le_mul_left _ hlast).trans (Nat.le_add_left _ _)
  · intro hval
    by_contra hlast
    have := Nat.mul_le_mul_left (2 ^ (8 * init.length)) (show last.toNat + 1 ≤ 2 ^ 7 by omega)
    rw [Nat.mul_succ] at this
    omega

/-! ### LED64: the padded word -/

theorem pad_getD (bs : List Byte) (f : Byte) (i : Nat) (h : i < 8) : (pad bs f).getD i 0 = bs.getD i f := by
  simp [pad, Config.padBytes, h]

/-- PAD of an operand that fits it is the operand, then the filler (40_datapath_units.md R96). -/
theorem pad_eq_append (bs : List Byte) (f : Byte) (h : bs.length ≤ 8) :
    pad bs f = bs ++ List.replicate (8 - bs.length) f := by
  refine List.ext_getElem (by simp [pad_length, h]) fun i _ _ => ?_
  by_cases hi : i < bs.length <;> simp [pad, hi, List.getElem_append]

/-- The eight bytes of PAD fit the word, so LED64 cuts nothing off. -/
theorem led64_toNat (bs : List Byte) (f : Byte) : (led64 bs f).toNat = le (pad bs f) := by
  have hlt := le_lt_two_pow (pad bs f)
  rw [pad_length] at hlt
  rw [led64, BitVec.toNat_ofNat, Nat.mod_eq_of_lt hlt]

/-- Byte `i` of a little-endian value is byte `i` of the sequence, zero beyond its end. -/
theorem le_byte (bs : List Byte) (i : Nat) : le bs / 2 ^ (8 * i) % 2 ^ 8 = (bs.getD i 0).toNat := by
  induction bs generalizing i with
  | nil => simp
  | cons b bs ih =>
    have hb := b.isLt
    rw [le_cons]
    cases i with
    | zero => rw [List.getD_cons_zero]; omega
    | succ i =>
      have hdiv : (b.toNat + 256 * le bs) / 2 ^ 8 = le bs := by omega
      rw [List.getD_cons_succ, ← ih i, Nat.mul_succ, Nat.add_comm (8 * i), Nat.pow_add, ← Nat.div_div_eq_div_mul,
        hdiv]

theorem led64_byte (bs : List Byte) (f : Byte) (i : Nat) (h : i < 8) :
    (led64 bs f).extractLsb' (8 * i) 8 = bs.getD i f := by
  apply BitVec.eq_of_toNat_eq
  rw [BitVec.extractLsb'_toNat, Nat.shiftRight_eq_div_pow, led64_toNat, le_byte, pad_getD bs f i h]

/-- The operand is the low part of the padded word's number, and the filler bytes stand above it. -/
theorem led64_toNat_eq_add (bs : List Byte) (f : Byte) (h : bs.length ≤ 8) :
    (led64 bs f).toNat = le bs + 2 ^ (8 * bs.length) * le (List.replicate (8 - bs.length) f) := by
  rw [led64_toNat, pad_eq_append bs f h, le_append]

/-- Whatever the filler, the low bits of the padded word are the operand (40_datapath_units.md R97). -/
theorem led64_toNat_mod (bs : List Byte) (f : Byte) (h : bs.length ≤ 8) :
    (led64 bs f).toNat % 2 ^ (8 * bs.length) = le bs := by
  rw [led64_toNat_eq_add bs f h, Nat.add_mul_mod_self_left, Nat.mod_eq_of_lt (le_lt_two_pow bs)]

theorem le_replicate_zero (n : Nat) : le (List.replicate n 0x00) = 0 := by
  induction n with
  | zero => rfl
  | succ n ih => rw [List.replicate_succ, le_cons, ih]; rfl

/-- Bytes of all ones are one short of the next power. -/
theorem le_replicate_ff (n : Nat) : le (List.replicate n 0xFF) + 1 = 2 ^ (8 * n) := by
  induction n with
  | zero => rfl
  | succ n ih =>
    have hff : (0xFF : Byte).toNat = 255 := rfl
    rw [List.replicate_succ, le_cons, Nat.mul_succ, Nat.pow_add, ← ih, hff]
    omega

/-- The closed form with filler 0x00 (40_datapath_units.md R97). -/
theorem led64_zero_toNat (bs : List Byte) (h : bs.length ≤ 8) : (led64 bs 0x00).toNat = le bs := by
  rw [led64_toNat_eq_add bs _ h, le_replicate_zero, Nat.mul_zero, Nat.add_zero]

/-- The closed form with filler 0xFF (40_datapath_units.md R97), without the subtraction. -/
theorem led64_ff_toNat_add (bs : List Byte) (h : bs.length ≤ 8) :
    (led64 bs 0xFF).toNat + 2 ^ (8 * bs.length) = le bs + 2 ^ 64 := by
  have hsplit : 2 ^ (8 * bs.length) * 2 ^ (8 * (8 - bs.length)) = 2 ^ 64 := by
    rw [← Nat.pow_add]; congr 1; omega
  rw [led64_toNat_eq_add bs _ h, Nat.add_assoc, ← Nat.mul_add_one, le_replicate_ff, hsplit]

/-- The padded word of DS64 by the sign of its operand: the operand itself, or the operand less `2^(8n)` modulo
`2^64` (40_datapath_units.md R94, R97). -/
theorem ds64Value_cases (bs : List Byte) (h1 : 1 ≤ bs.length) (h8 : bs.length ≤ 8) :
    (le bs < 2 ^ (8 * bs.length - 1) ∧ (ds64Value bs).toNat = le bs) ∨
    (2 ^ (8 * bs.length - 1) ≤ le bs ∧ (ds64Value bs).toNat + 2 ^ (8 * bs.length) = le bs + 2 ^ 64) := by
  have hsign := last_ge_iff_le_ge bs h1
  rw [ds64Value, sxu_eq_ite]
  by_cases h : 128 ≤ (msb bs).toNat
  · exact .inr ⟨hsign.mp h, by rw [if_pos ⟨rfl, h⟩, led64_ff_toNat_add bs h8]⟩
  · exact .inl ⟨not_le.mp (mt hsign.mpr h), by rw [if_neg (fun hc => h hc.2), led64_zero_toNat bs h8]⟩

/-- DS64's word and its operand are the same number in two's complement, the one in 64 bits and the other in `8n`
(40_datapath_units.md R97). -/
theorem ds64Value_toInt (bs : List Byte) (h1 : 1 ≤ bs.length) (h8 : bs.length ≤ 8) :
    (ds64Value bs).toInt = (BitVec.ofNat (8 * bs.length) (le bs)).toInt := by
  have hlt := le_lt_two_pow bs
  have hpow : 2 ^ (8 * bs.length) ≤ 2 ^ 64 := Nat.pow_le_pow_right (by decide) (by omega)
  have hhalf : 2 ^ (8 * bs.length) = 2 * 2 ^ (8 * bs.length - 1) := by
    rw [← Nat.pow_succ']; congr 1; omega
  have hcases := ds64Value_cases bs h1 h8
  rw [BitVec.toInt_eq_toNat_cond, BitVec.toInt_eq_toNat_cond, BitVec.toNat_ofNat, Nat.mod_eq_of_lt hlt]
  generalize 2 ^ (8 * bs.length) = full at *
  generalize 2 ^ (8 * bs.length - 1) = half at *
  rcases hcases with ⟨hpos, hval⟩ | ⟨hneg, hval⟩
  · rw [if_pos (by omega), if_pos (by omega), hval]
  · rw [if_neg (by omega), if_neg (by omega)]
    omega

/-! ### The procedure Exec over numbers -/

/-- Registers that hold a response are those that the spec's `answer` writes. -/
theorem sameResponse_answer_of_holds (t s : State) (kind fn received lo hi value : Nat) (text : List Byte)
    (h : HoldsResponse t kind fn received lo hi (BitVec.ofNat 64 value) text) :
    SameResponse t (answer kind fn received lo hi value text s) := by
  obtain ⟨hstatus, herrinfo, hvalue, htext⟩ := h
  refine ⟨?_, ?_, hvalue, htext⟩
  · rw [answer, ← hstatus, BitVec.ofNat_toNat, BitVec.setWidth_eq]
  · rw [answer, ← herrinfo, BitVec.ofNat_toNat, BitVec.setWidth_eq]

/-- The number `procedureExec` computes from the operand of each instruction; `procedureExec_of_fwv` ties it to the
procedure, `instrFinish_eq_procedure` to the machine. -/
def procedureNumber : Instr → List Byte → Nat
  | .ds64 len, bs =>
    le (bs ++ List.replicate (8 - len) (if 128 ≤ (bs.getD (len - 1) 0).toNat then 0xFF else 0x00))
  | .du64 len, bs => le (bs ++ List.replicate (8 - len) 0x00)
  | .du16 _, bs => (bs.getD 0 0).toNat + (bs.getD 1 0).toNat * 2 ^ 8
  | .du32 _, bs =>
    (bs.getD 0 0).toNat + (bs.getD 1 0).toNat * 2 ^ 8 + (bs.getD 2 0).toNat * 2 ^ 16 + (bs.getD 3 0).toNat * 2 ^ 24
  | .dtxt _, _ => 0

/-- The text `procedureExec` makes of the operand of each instruction. -/
def procedureText : Instr → List Byte → List Byte
  | .ds64 _, _ | .du64 _, _ | .du16 _, _ | .du32 _, _ => []
  | .dtxt _, bs => bs.filter (fun b => b != 0)

/-- Step 1 of `Exec`: an illegal word (40_datapath_units.md R100). -/
theorem procedureExec_of_not_legalWord (c : Command) (s : State) (h : ¬ LegalWord c) :
    procedureExec c s = answer 3 (wordOp c) (wordLen c) 0 0 0 [] s :=
  if_pos (by simp only [LegalWord, wordOp] at h ⊢; omega)

/-- Past step 1 of `Exec` for a legal word: the test that sends a word to IllegalCommand fails. -/
theorem LegalWord.not_illegal (c : Command) (h : LegalWord c) :
    ¬ (c.toNat / 2 ^ 3 % 2 ^ 5 ≠ 0 ∨ c.toNat / 2 ^ 24 ≠ 0 ∨ wordOp c = 0 ∨ wordOp c = 6 ∨ wordOp c = 7) := by
  simp only [LegalWord, wordOp] at h ⊢
  omega

/-- FWV on a decoded instruction is the range test of `Exec` on the word's own numbers. -/
theorem fwv_of_decode_iff (c : Command) (i : Instr) (h : decode c = .ok i) :
    fwv (instrOp i) i.len = true ↔
      ¬ (wordLen c < (legalRange (wordOp c)).1 ∨ (legalRange (wordOp c)).2 < wordLen c) := by
  rw [fwv_iff, len_of_decode c i h, ← (legalWord_of_decode_ok c i h).2, ← lengthRule_eq_legalRange]
  omega

/-- The error of each operation as step 2 of `Exec` numbers it: 2 for DTXT, 1 for the others. -/
theorem lengthRule_kind_code (op : Op) :
    op.lengthRule.kind.code.toNat = if op.code.toNat = 5 then 2 else 1 := by
  cases op <;> rfl

/-- Step 2 of `Exec` for a decoded instruction: a length outside its range (40_datapath_units.md R100). -/
theorem procedureExec_of_not_fwv (c : Command) (i : Instr) (s : State) (h : decode c = .ok i)
    (hv : ¬ fwv (instrOp i) i.len = true) :
    procedureExec c s =
      answer (instrOp i).lengthRule.kind.code.toNat (instrOp i).code.toNat i.len (instrOp i).lengthRule.lo
        (instrOp i).lengthRule.hi 0 [] s := by
  obtain ⟨hlegal, hop⟩ := legalWord_of_decode_ok c i h
  have hrange := lengthRule_eq_legalRange (instrOp i)
  rw [fwv_of_decode_iff c i h, not_not] at hv
  rw [lengthRule_kind_code, len_of_decode c i h]
  rw [hop] at hrange ⊢
  rw [procedureExec, if_neg (LegalWord.not_illegal c hlegal), if_pos hv, ← hrange]

/-- Steps 3 and 4 of `Exec` for a decoded instruction: the operand and its result (40_datapath_units.md R100). -/
theorem procedureExec_of_fwv (c : Command) (i : Instr) (s : State) (h : decode c = .ok i)
    (hv : fwv (instrOp i) i.len = true) :
    procedureExec c s =
      answer 0 (instrOp i).code.toNat i.len (instrOp i).lengthRule.lo (instrOp i).lengthRule.hi
        (procedureNumber i (operand s i.len)) (procedureText i (operand s i.len)) s := by
  obtain ⟨hlegal, hop⟩ := legalWord_of_decode_ok c i h
  have hlen := len_of_decode c i h
  have hin := (fwv_of_decode_iff c i h).mp hv
  rw [procedureExec, if_neg (LegalWord.not_illegal c hlegal), if_neg hin, ← hop, ← hlen]
  -- the operation's code is a numeral now, so the chain of tests over it computes to one branch
  cases i <;> rfl

/-! ### What the machine computes is what the procedure computes -/

theorem led64_eq_ofNat (bs : List Byte) (f : Byte) (h : bs.length ≤ 8) :
    led64 bs f = BitVec.ofNat 64 (le (bs ++ List.replicate (8 - bs.length) f)) := by
  rw [led64, pad_eq_append bs f h]

theorem le_of_length_two (bs : List Byte) (h : bs.length = 2) :
    le bs = (bs.getD 0 0).toNat + (bs.getD 1 0).toNat * 2 ^ 8 := by
  obtain ⟨a, b, rfl⟩ := List.length_eq_two.mp h
  simp only [le_cons, le_nil, List.getD_cons_zero, List.getD_cons_succ]
  omega

theorem le_of_length_four (bs : List Byte) (h : bs.length = 4) :
    le bs = (bs.getD 0 0).toNat + (bs.getD 1 0).toNat * 2 ^ 8 + (bs.getD 2 0).toNat * 2 ^ 16 +
      (bs.getD 3 0).toNat * 2 ^ 24 := by
  obtain ⟨a, b, c, d, rfl⟩ := List.length_eq_four.mp h
  simp only [le_cons, le_nil, List.getD_cons_zero, List.getD_cons_succ]
  omega

/-- Widening a number that fits its width keeps the number. -/
theorem ofNat_setWidth_of_lt (w v n : Nat) (h : n < 2 ^ w) :
    (BitVec.ofNat w n).setWidth v = BitVec.ofNat v n := by
  apply BitVec.eq_of_toNat_eq
  rw [BitVec.toNat_setWidth, BitVec.toNat_ofNat, BitVec.toNat_ofNat, Nat.mod_eq_of_lt h]

theorem strip0_eq_filter (bs : List Byte) : strip0 bs = bs.filter (fun b => b != 0) := by
  induction bs with
  | nil => rfl
  | cons b bs ih =>
    by_cases hb : b = 0
    · subst hb
      rw [strip0_zero, ih, List.filter_cons_of_neg (by simp)]
    · rw [strip0_nonzero b bs hb, ih, List.filter_cons_of_pos (by simpa using hb)]

/-- Over an operand of a legal length an instruction computes what the procedure computes. -/
theorem instrFinish_eq_procedure (i : Instr) (bs : List Byte) (hv : fwv (instrOp i) i.len = true)
    (hlen : bs.length = i.len) :
    instrFinish i bs = (BitVec.ofNat 64 (procedureNumber i bs), procedureText i bs) := by
  obtain ⟨hlo, hhi⟩ := (fwv_iff _ _).mp hv
  have hlt := le_lt_two_pow bs
  cases i with
  | ds64 len =>
    obtain rfl : bs.length = len := hlen
    simp only [instrFinish, procedureNumber, procedureText, ds64Value, led64_eq_ofNat bs _ hhi, sxu_eq_ite, msb_eq_getD,
      true_and]
  | du64 len =>
    obtain rfl : bs.length = len := hlen
    exact congrArg (·, []) (led64_eq_ofNat bs _ hhi)
  | du16 len =>
    have h2 : bs.length = 2 := hlen.trans (Nat.le_antisymm hhi hlo)
    rw [h2] at hlt
    rw [instrFinish, procedureNumber, procedureText, led16, ofNat_setWidth_of_lt _ _ _ hlt, le_of_length_two bs h2]
  | du32 len =>
    have h4 : bs.length = 4 := hlen.trans (Nat.le_antisymm hhi hlo)
    rw [h4] at hlt
    rw [instrFinish, procedureNumber, procedureText, led32, ofNat_setWidth_of_lt _ _ _ hlt, le_of_length_four bs h4]
  | dtxt len => exact congrArg ((0 : BitVec 64), ·) (strip0_eq_filter bs)

/-- No instruction makes more text than it reads (10_state.md R42). -/
theorem procedureText_length_le (i : Instr) (bs : List Byte) : (procedureText i bs).length ≤ bs.length := by
  cases i with
  | dtxt len => exact List.length_filter_le _ bs
  | _ => exact Nat.zero_le _

/-- A decoded instruction's response is the procedure's, whether its length is legal or not. -/
theorem command_sameResponse_procedureExec (c : Command) (i : Instr) (s : State) (h : decode c = .ok i) :
    SameResponse (command (instrOp i) i.len (instrFinish i) s) (procedureExec c s) := by
  have hlen : i.len ≤ 65535 := by
    rw [len_of_decode c i h]; exact Nat.le_of_lt_succ (Nat.mod_lt _ (by decide))
  have hrange := lengthRule_eq_legalRange (instrOp i)
  obtain ⟨hlo, hhi⟩ := legalRange_le (instrOp i).code.toNat
  rw [← hrange] at hlo hhi
  by_cases hv : fwv (instrOp i) i.len = true
  · have hfinish := instrFinish_eq_procedure i (operand s i.len) hv (operand_length s i.len)
    have htext := procedureText_length_le i (operand s i.len)
    rw [operand_length] at htext
    rw [command_of_fwv _ _ _ _ hv, procedureExec_of_fwv c i s h hv, hfinish]
    exact sameResponse_answer_of_holds _ _ _ _ _ _ _ _ _ (respond_holds _ _ (htext.trans hlen) hlen hlo hhi)
  · rw [command_of_not_fwv _ _ _ _ hv, procedureExec_of_not_fwv c i s h hv]
    exact sameResponse_answer_of_holds _ _ _ _ _ _ _ _ _ (respond_holds _ _ (Nat.zero_le _) hlen hlo hhi)

/-- An illegal word's response is the procedure's. -/
theorem illegal_sameResponse_procedureExec (c : Command) (s : State) (h : ¬ LegalWord c) :
    SameResponse (raiseError .illegalCommand (opField c) (lenField c).toNat 0 0 s) (procedureExec c s) := by
  obtain ⟨hop, hlen, -, -⟩ := wordFields_toNat c
  have hbound : (lenField c).toNat ≤ 65535 := Nat.le_of_lt_succ (lenField c).isLt
  rw [procedureExec_of_not_legalWord c s h, ← hop, ← hlen]
  exact sameResponse_answer_of_holds _ _ _ _ _ _ _ _ _
    (respond_holds _ _ (Nat.zero_le _) hbound (Nat.zero_le _) (Nat.zero_le _))

/-- Nothing but the response and the count of draws is a command's to change (10_state.md R24). -/
theorem hostIssue_sameOutside (c : Command) (s t : State) (h : hostIssue c s = .next t) : SameOutside s t := by
  obtain ⟨r, d, hr, -⟩ := hostIssue_responds c s
  cases hr.symm.trans h
  exact ⟨respond_ibuf .., respond_pending .., respond_reads ..⟩

/-! ### The statements -/

/-- Settles O40: SXU tests bit 7 of the byte, which is the byte being at least 128. -/
theorem fillerFollowsBitSevenOfTheLastByte : Obligations.FillerFollowsBitSevenOfTheLastByte := by
  unfold Obligations.FillerFollowsBitSevenOfTheLastByte
  exact fun op bs last => ⟨msb_concat bs last, sxu_eq_ite op last⟩

/-- Settles O17: FWV passes the range of each row, and the rows are the table's. -/
theorem validatorFollowsItsTable : Obligations.ValidatorFollowsItsTable := by
  unfold Obligations.ValidatorFollowsItsTable
  intro len hlen
  refine ⟨fwv_iff .ds64 len, fwv_iff .du64 len, ?_, ?_, ?_, lengthRule_ds64, lengthRule_du64, lengthRule_du16,
    lengthRule_du32, lengthRule_dtxt⟩
  · exact (fwv_iff .du16 len).trans (show 2 ≤ len ∧ len ≤ 2 ↔ len = 2 by omega)
  · exact (fwv_iff .du32 len).trans (show 4 ≤ len ∧ len ≤ 4 ↔ len = 4 by omega)
  · exact (fwv_iff .dtxt len).trans (and_iff_left hlen)

/-- Settles O9, by the decoder's answer: the command of an instruction and the response to an illegal word are both the
procedure's, and no command changes anything outside its response. -/
theorem hostIssueIsTheProcedureExec : Obligations.HostIssueIsTheProcedureExec := by
  unfold Obligations.HostIssueIsTheProcedureExec
  intro c s
  cases hd : decode c with
  | ok i =>
    have ht := hostIssue_of_decode_ok c i s hd
    exact ⟨_, ht, command_sameResponse_procedureExec c i s hd, hostIssue_sameOutside c s _ ht⟩
  | error e =>
    have ht := hostIssue_of_decode_error c e s hd
    exact ⟨_, ht, illegal_sameResponse_procedureExec c s (not_legalWord_of_decode_error c e hd),
      hostIssue_sameOutside c s _ ht⟩

/-- Settles O41: byte `i` of the word is entry `i` of PAD. -/
theorem paddedWordHoldsOperandThenFiller : Obligations.PaddedWordHoldsOperandThenFiller := by
  unfold Obligations.PaddedWordHoldsOperandThenFiller
  intro bs f i _ _ hi
  rw [led64_byte bs f i hi]
  split
  next hlt => exact List.getD_eq_getElem bs f hlt
  next hge => exact List.getD_eq_default bs f (not_lt.mp hge)

/-- Settles O42: the operand is the low part of the word for both fillers, and bit 7 of the last byte, which chooses
the filler, is the operand's sign. -/
theorem paddedWordClosedForms : Obligations.PaddedWordClosedForms := by
  unfold Obligations.PaddedWordClosedForms
  intro bs h1 h8
  refine ⟨led64_zero_toNat bs h8, Nat.eq_sub_of_add_eq (led64_ff_toNat_add bs h8), ?_,
    fun op hop => sxu_of_ne_ds64 op _ hop, ds64Value_toInt bs h1 h8, led64_toNat_mod bs _ h8,
    led64_toNat_mod bs _ h8⟩
  rw [sxu_ds64_eq_ff_iff, last_ge_iff_le_ge bs h1]

end Sys2Proof.Machine

/-! PROOFS. The statements of 41_varwidth64.md: the results of DS64 and DU64 (R110, R112), the numbers they produce
(R111, R113), and how the two words over one operand relate (R114). -/

namespace Sys2Proof.Machine

/-! ### The word and the outcome of an instruction -/

/-- A word with the number of an instruction's fields decodes to that instruction (30_encoding.md R70, R75). -/
theorem decode_of_toNat_eq (c : Command) (i : Instr) (hwf : i.WellFormed)
    (h : c.toNat = i.len * 256 + i.opBits.toNat) : decode c = .ok i := by
  have hlen : i.len ≤ 65535 := hwf
  have hop := i.opBits.isLt
  have hz1 : c.toNat / 2 ^ 3 % 2 ^ 5 = 0 := by omega
  have hz2 : c.toNat / 2 ^ 24 = 0 := by omega
  have hwordOp : wordOp c = i.opBits.toNat := by simp only [wordOp]; omega
  have hwordLen : wordLen c = i.len := by simp only [wordLen]; omega
  rw [decode_by_fields, if_neg (not_not.mpr hz1), if_neg (not_not.mpr hz2), hwordOp, hwordLen]
  cases i <;> rfl

/-- The same for the number written out: it fits a command word. -/
theorem decode_ofNat (i : Instr) (hwf : i.WellFormed) :
    decode (BitVec.ofNat 32 (i.len * 256 + i.opBits.toNat)) = .ok i := by
  have hlen : i.len ≤ 65535 := hwf
  have hop := i.opBits.isLt
  refine decode_of_toNat_eq _ i hwf ?_
  rw [BitVec.toNat_ofNat, Nat.mod_eq_of_lt (by omega)]

/-- Both ends of every row of FWV's table fit the 16 bits of their ERRINFO field. -/
theorem lengthRule_le (op : Op) : op.lengthRule.lo ≤ 65535 ∧ op.lengthRule.hi ≤ 65535 := by
  cases op <;> decide

theorem HoldsResponse.value_eq {t : State} {kind fn received lo hi : Nat} {value : BitVec 64} {text : List Byte}
    (h : HoldsResponse t kind fn received lo hi value text) : t.value = value := by
  obtain ⟨-, -, hvalue, -⟩ := h
  exact hvalue

/-- A legal length: the response holds what the instruction computes from its operand, and nothing outside the
response changes. -/
theorem exec_holds_of_fwv (i : Instr) (s : State) (hwf : i.WellFormed) (hv : fwv (instrOp i) i.len = true) :
    ∃ t, exec i s = .next t ∧
      HoldsResponse t 0 (instrOp i).code.toNat i.len (instrOp i).lengthRule.lo (instrOp i).lengthRule.hi
        (instrFinish i (operand s i.len)).1 (instrFinish i (operand s i.len)).2 ∧
      SameOutside s t := by
  obtain ⟨hlo, hhi⟩ := lengthRule_le (instrOp i)
  have htext : (instrFinish i (operand s i.len)).2.length ≤ i.len := by
    rw [instrFinish_eq_procedure i _ hv (operand_length s i.len)]
    exact (procedureText_length_le i _).trans_eq (operand_length s i.len)
  refine ⟨_, exec_eq_command i s, ?_⟩
  rw [command_of_fwv _ _ _ _ hv]
  exact ⟨respond_holds _ _ (htext.trans hwf) hwf hlo hhi, respond_ibuf .., respond_pending .., respond_reads ..⟩

/-- An illegal length: the response is the operation's length error, and nothing outside the response changes. -/
theorem exec_holds_of_not_fwv (i : Instr) (s : State) (hwf : i.WellFormed) (hv : ¬ fwv (instrOp i) i.len = true) :
    ∃ t, exec i s = .next t ∧
      HoldsResponse t (instrOp i).lengthRule.kind.code.toNat (instrOp i).code.toNat i.len (instrOp i).lengthRule.lo
        (instrOp i).lengthRule.hi 0 [] ∧
      SameOutside s t := by
  obtain ⟨hlo, hhi⟩ := lengthRule_le (instrOp i)
  refine ⟨_, exec_eq_command i s, ?_⟩
  rw [command_of_not_fwv _ _ _ _ hv]
  exact ⟨respond_holds _ _ (Nat.zero_le _) hwf hlo hhi, raiseError_ibuf .., raiseError_pending .., raiseError_reads ..⟩

/-! ### Operands and their little-endian values -/

/-- Byte sequences of one length with one value are equal: each byte is a digit of the value to base 256. -/
theorem eq_of_le_eq (as bs : List Byte) (hlen : as.length = bs.length) (h : le as = le bs) : as = bs := by
  refine List.ext_getElem hlen fun i ha hb => BitVec.eq_of_toNat_eq ?_
  have hbyte := le_byte as i
  rw [h, le_byte, List.getD_eq_getElem _ _ ha, List.getD_eq_getElem _ _ hb] at hbyte
  exact hbyte.symm

/-- Every number below `2^(8n)` is the value of `n` bytes: its low byte, then the bytes of the rest. -/
theorem exists_le_eq (n v : Nat) (h : v < 2 ^ (8 * n)) : ∃ bs : List Byte, bs.length = n ∧ le bs = v := by
  induction n generalizing v with
  | zero => exact ⟨[], rfl, by rw [le_nil]; omega⟩
  | succ n ih =>
    rw [Nat.mul_succ, Nat.pow_add] at h
    obtain ⟨bs, hlen, hle⟩ := ih (v / 256) (by omega)
    refine ⟨BitVec.ofNat 8 v :: bs, by rw [List.length_cons, hlen], ?_⟩
    rw [le_cons, hle, BitVec.toNat_ofNat]
    omega

/-- The `n`-byte little-endian form of a number below `2^(8n)` exists and is unique. -/
theorem existsUnique_le_eq (n v : Nat) (h : v < 2 ^ (8 * n)) : ∃! bs : List Byte, bs.length = n ∧ le bs = v := by
  obtain ⟨bs, hlen, hle⟩ := exists_le_eq n v h
  refine ⟨bs, ⟨hlen, hle⟩, ?_⟩
  rintro as ⟨hlen', hle'⟩
  exact eq_of_le_eq as bs (hlen'.trans hlen.symm) (hle'.trans hle.symm)

/-! ### The two words of an operand -/

theorem du64Value_toNat (bs : List Byte) (h : bs.length ≤ 8) : (du64Value bs).toNat = le bs :=
  led64_zero_toNat bs h

/-- DU64's word is the operand's value, zero-extended (41_varwidth64.md R112). -/
theorem du64Value_eq_ofNat (bs : List Byte) (h : bs.length ≤ 8) : du64Value bs = BitVec.ofNat 64 (le bs) := by
  rw [← du64Value_toNat bs h, BitVec.ofNat_toNat, BitVec.setWidth_eq]

/-- DS64's word is the `8n`-bit operand, sign-extended (41_varwidth64.md R110): both are the same number in two's
complement. -/
theorem ds64Value_eq_signExtend (bs : List Byte) (h1 : 1 ≤ bs.length) (h8 : bs.length ≤ 8) :
    ds64Value bs = (BitVec.ofNat (8 * bs.length) (le bs)).signExtend 64 := by
  apply BitVec.eq_of_toInt_eq
  rw [ds64Value_toInt bs h1 h8, BitVec.toInt_signExtend_of_le (by omega)]

/-- DS64's number by cases: `u` below the half, `u - 2^(8n)` from there on (41_varwidth64.md R111). -/
theorem ds64Value_toInt_eq_ite (bs : List Byte) (h1 : 1 ≤ bs.length) (h8 : bs.length ≤ 8) :
    (ds64Value bs).toInt =
      if le bs < 2 ^ (8 * bs.length - 1) then (le bs : Int) else (le bs : Int) - 2 ^ (8 * bs.length) := by
  have hhalf : 2 ^ (8 * bs.length) = 2 * 2 ^ (8 * bs.length - 1) := by
    rw [← Nat.pow_succ']; congr 1; omega
  have hiff : 2 * le bs < 2 ^ (8 * bs.length) ↔ le bs < 2 ^ (8 * bs.length - 1) := by omega
  rw [ds64Value_toInt bs h1 h8, BitVec.toInt_eq_toNat_cond, BitVec.toNat_ofNat, Nat.mod_eq_of_lt (le_lt_two_pow bs)]
  exact if_congr hiff rfl (by push_cast; rfl)

/-- The signed range of the operand's `8n` bits (41_varwidth64.md R111). -/
theorem ds64Value_toInt_mem_range (bs : List Byte) (h1 : 1 ≤ bs.length) (h8 : bs.length ≤ 8) :
    -2 ^ (8 * bs.length - 1) ≤ (ds64Value bs).toInt ∧ (ds64Value bs).toInt ≤ 2 ^ (8 * bs.length - 1) - 1 := by
  rw [ds64Value_toInt bs h1 h8]
  exact ⟨BitVec.le_toInt _, BitVec.toInt_le⟩

/-- DS64 produces a number of the signed range from the bytes of its residue modulo `2^(8n)`, and from no others
(41_varwidth64.md R111, the round trip). -/
theorem ds64Value_toInt_eq_iff (bs : List Byte) (v : Int) (h1 : 1 ≤ bs.length) (h8 : bs.length ≤ 8)
    (hlo : -2 ^ (8 * bs.length - 1) ≤ v) (hhi : v ≤ 2 ^ (8 * bs.length - 1) - 1) :
    (ds64Value bs).toInt = v ↔ (le bs : Int) = v % 2 ^ (8 * bs.length) := by
  have hlt : (le bs : Int) < (2 ^ (8 * bs.length) : Nat) := by exact_mod_cast le_lt_two_pow bs
  have hhalf : ((2 ^ (8 * bs.length) : Nat) : Int) = 2 * 2 ^ (8 * bs.length - 1) := by
    push_cast; rw [← pow_succ']; congr 1; omega
  have hbmod : (ds64Value bs).toInt = (le bs : Int).bmod (2 ^ (8 * bs.length)) := by
    rw [ds64Value_toInt bs h1 h8, BitVec.toInt_ofNat']
  have hcast : (2 : Int) ^ (8 * bs.length) = (2 ^ (8 * bs.length) : Nat) := by push_cast; rfl
  rw [hbmod, hcast]
  constructor
  · rintro rfl
    rw [Int.bmod_emod, Int.emod_eq_of_lt (Int.natCast_nonneg _) hlt]
  · intro h
    rw [h, Int.emod_bmod, Int.bmod_eq_of_le_mul_two (by omega) (by omega)]

/-- Above the operand every bit of the padded word is a bit of the filler. -/
theorem led64_getLsbD_above (bs : List Byte) (f : Byte) (k : Nat) (hk : 8 * bs.length ≤ k) (hk64 : k < 64) :
    (led64 bs f).getLsbD k = f.getLsbD (k % 8) := by
  have hbyte : (led64 bs f).extractLsb' (8 * (k / 8)) 8 = f := by
    rw [led64_byte bs f (k / 8) (by omega), List.getD_eq_default bs f (by omega)]
  have hbit := congrArg (·.getLsbD (k % 8)) hbyte
  simpa only [BitVec.getLsbD_extractLsb', Nat.mod_lt k (by decide : 8 > 0), decide_true, Bool.true_and,
    Nat.div_add_mod] using hbit

/-- Bit 7 of the last byte is the operand's sign, so DS64 fills with ones exactly when it is set
(40_datapath_units.md R94). -/
theorem ds64Value_eq_led64_ff (bs : List Byte) (h : (bs.getD (bs.length - 1) 0).getLsbD 7 = true) :
    ds64Value bs = led64 bs 0xFF := by
  rw [ds64Value, sxu, msb_eq_getD, if_pos ⟨rfl, h⟩]

theorem ds64Value_eq_du64Value_of_nonneg (bs : List Byte) (h : (bs.getD (bs.length - 1) 0).getLsbD 7 = false) :
    ds64Value bs = du64Value bs := by
  rw [ds64Value, sxu, msb_eq_getD, if_neg (fun hc => Bool.false_ne_true (h.symm.trans hc.2)), du64Value]

/-- A negative operand: the two words are `2^64 - 2^(8n)` apart (41_varwidth64.md R114). -/
theorem ds64Value_toNat_add (bs : List Byte) (h8 : bs.length ≤ 8)
    (h : (bs.getD (bs.length - 1) 0).getLsbD 7 = true) :
    (ds64Value bs).toNat + 2 ^ (8 * bs.length) = (du64Value bs).toNat + 2 ^ 64 := by
  rw [ds64Value_eq_led64_ff bs h, led64_ff_toNat_add bs h8, du64Value_toNat bs h8]

/-- The two words differ exactly where DS64 has filler bytes and fills them with ones (41_varwidth64.md R114). -/
theorem ds64Value_eq_du64Value_iff (bs : List Byte) (h8 : bs.length ≤ 8) :
    ds64Value bs = du64Value bs ↔ bs.length = 8 ∨ (bs.getD (bs.length - 1) 0).getLsbD 7 = false := by
  cases hsign : (bs.getD (bs.length - 1) 0).getLsbD 7 with
  | false => exact iff_of_true (ds64Value_eq_du64Value_of_nonneg bs hsign) (.inr rfl)
  | true =>
    have hadd := ds64Value_toNat_add bs h8 hsign
    have hpow : 2 ^ (8 * bs.length) = 2 ^ 64 ↔ bs.length = 8 := by
      rw [Nat.pow_right_inj (by decide)]; omega
    rw [← BitVec.toNat_inj, or_iff_left (by decide), ← hpow]
    omega

/-- A negative operand: DU64's number less DS64's is `2^(8n)` (41_varwidth64.md R114). -/
theorem du64Value_sub_ds64Value_toInt (bs : List Byte) (h1 : 1 ≤ bs.length) (h8 : bs.length ≤ 8)
    (h : (bs.getD (bs.length - 1) 0).getLsbD 7 = true) :
    ((du64Value bs).toNat : Int) - (ds64Value bs).toInt = 2 ^ (8 * bs.length) := by
  rw [bit_seven_iff, ← msb_eq_getD, last_ge_iff_le_ge bs h1] at h
  rw [du64Value_toNat bs h8, ds64Value_toInt_eq_ite bs h1 h8, if_neg (not_lt.mpr h)]
  ring

/-! ### The statements -/

/-- Settles O10, by whether the length is in FWV's range: the operand's sign extension, or InvalidLength. -/
theorem ds64SignExtendsOrReportsTheLength : Obligations.Ds64SignExtendsOrReportsTheLength := by
  unfold Obligations.Ds64SignExtendsOrReportsTheLength
  intro n s hn
  have hfwv : fwv .ds64 n = true ↔ 1 ≤ n ∧ n ≤ 8 := fwv_iff .ds64 n
  refine ⟨decode_ofNat (.ds64 n) hn, fun hlegal => ?_, fun hbad => ?_⟩
  · have hvalue := ds64Value_eq_signExtend (operand s n)
    rw [operand_length] at hvalue
    rw [← hvalue hlegal.1 hlegal.2]
    exact exec_holds_of_fwv (.ds64 n) s hn (hfwv.mpr hlegal)
  · exact exec_holds_of_not_fwv (.ds64 n) s hn (mt hfwv.mp (by omega))

/-- Settles O11, by whether the length is in FWV's range: the operand's value, or InvalidLength. -/
theorem du64ZeroExtendsOrReportsTheLength : Obligations.Du64ZeroExtendsOrReportsTheLength := by
  unfold Obligations.Du64ZeroExtendsOrReportsTheLength
  intro n s hn
  have hfwv : fwv .du64 n = true ↔ 1 ≤ n ∧ n ≤ 8 := fwv_iff .du64 n
  refine ⟨decode_ofNat (.du64 n) hn, fun hlegal => ?_, fun hbad => ?_⟩
  · have hlen : (operand s n).length ≤ 8 := (operand_length s n).trans_le hlegal.2
    obtain ⟨t, ht, hholds, hout⟩ := exec_holds_of_fwv (.du64 n) s hn (hfwv.mpr hlegal)
    have hvalue : t.value.toNat = le (operand s n) := hholds.value_eq ▸ du64Value_toNat _ hlen
    rw [← du64Value_eq_ofNat _ hlen]
    exact ⟨t, ht, hholds, hvalue, hout⟩
  · exact exec_holds_of_not_fwv (.du64 n) s hn (mt hfwv.mp (by omega))

/-- Settles O43: a number of the signed range and its residue modulo `2^(8n)` determine each other, and each residue
has one `n`-byte form. -/
theorem ds64CoversItsSignedRangeOnce : Obligations.Ds64CoversItsSignedRangeOnce := by
  unfold Obligations.Ds64CoversItsSignedRangeOnce
  intro n h1 h8
  refine ⟨fun s => exec_value_of_fwv (.ds64 n) s ((fwv_iff .ds64 n).mpr ⟨h1, h8⟩), ?_, fun v hlo hhi => ?_⟩
  · rintro bs rfl
    exact ⟨ds64Value_toInt_eq_ite bs h1 h8, ds64Value_toInt_mem_range bs h1 h8⟩
  · have hiff : ∀ bs : List Byte, bs.length = n → ((ds64Value bs).toInt = v ↔ (le bs : Int) = v % 2 ^ (8 * n)) := by
      rintro bs rfl
      exact ds64Value_toInt_eq_iff bs v h1 h8 hlo hhi
    have hpos : (0 : Int) < 2 ^ (8 * n) := by positivity
    obtain ⟨u, hu⟩ := Int.eq_ofNat_of_zero_le (Int.emod_nonneg v hpos.ne')
    have hlt : u < 2 ^ (8 * n) := by exact_mod_cast hu ▸ Int.emod_lt_of_pos v hpos
    refine ⟨(existsUnique_congr fun bs => and_congr_right fun hlen => ?_).mpr (existsUnique_le_eq n u hlt),
      fun bs hlen => (hiff bs hlen).mpr⟩
    rw [hiff bs hlen, hu, Int.natCast_inj]

/-- Settles O44: DU64's number is the operand's value, and each number below `2^(8n)` has one `n`-byte form. -/
theorem du64CoversItsUnsignedRangeOnce : Obligations.Du64CoversItsUnsignedRangeOnce := by
  unfold Obligations.Du64CoversItsUnsignedRangeOnce
  intro n h1 h8
  have hvalue : ∀ bs : List Byte, bs.length = n → (du64Value bs).toNat = le bs :=
    fun bs hlen => du64Value_toNat bs (hlen.trans_le h8)
  refine ⟨fun s => exec_value_of_fwv (.du64 n) s ((fwv_iff .du64 n).mpr ⟨h1, h8⟩), ?_, fun v hv => ?_⟩
  · rintro bs rfl
    rw [hvalue bs rfl]
    exact ⟨rfl, Nat.le_pred_of_lt (le_lt_two_pow bs)⟩
  · refine (existsUnique_congr fun bs => and_congr_right fun hlen => ?_).mpr
      (existsUnique_le_eq n v (Nat.lt_of_le_pred (by positivity) hv))
    rw [hvalue bs hlen]

/-- Settles O45: the two words share the operand and differ by the filler alone, which bit 7 of the last byte
chooses. -/
theorem signedAndUnsignedAgreeInTheLowBits : Obligations.SignedAndUnsignedAgreeInTheLowBits := by
  unfold Obligations.SignedAndUnsignedAgreeInTheLowBits
  intro bs h1 h8
  refine ⟨led64_toNat_mod bs _ h8, led64_toNat_mod bs _ h8, ds64Value_eq_du64Value_iff bs h8, fun _ hsign => ?_⟩
  have hadd := ds64Value_toNat_add bs h8 hsign
  refine ⟨fun k hk hk64 => ⟨?_, ?_⟩, ?_, du64Value_sub_ds64Value_toInt bs h1 h8 hsign⟩
  · have hones : (BitVec.allOnes 8).getLsbD (k % 8) = true := by
      rw [BitVec.getLsbD_allOnes, decide_eq_true (Nat.mod_lt k (by decide))]
    rw [ds64Value_eq_led64_ff bs hsign, led64_getLsbD_above bs _ k hk hk64]
    exact hones
  · rw [du64Value, led64_getLsbD_above bs _ k hk hk64]
    exact BitVec.getLsbD_zero
  · have hfull : 2 ^ (8 * bs.length) ≤ 2 ^ 64 := Nat.pow_le_pow_right (by decide) (by omega)
    omega

end Sys2Proof.Machine

/-! PROOFS. The statements of 42_fixedwidth.md: the results of DU16 and DU32 (R120, R122), and their agreement with
DU64 (R121, R123). -/

namespace Sys2Proof.Machine

/-! ### The fixed-width words -/

theorem fwv_du16_iff (n : Nat) : fwv .du16 n = true ↔ n = 2 := by
  rw [fwv_iff, lengthRule_du16, ← le_antisymm_iff, eq_comm]

theorem fwv_du32_iff (n : Nat) : fwv .du32 n = true ↔ n = 4 := by
  rw [fwv_iff, lengthRule_du32, ← le_antisymm_iff, eq_comm]

/-- LED16 loses nothing of two bytes, and neither does the widening into VALUE (42_fixedwidth.md R120). -/
theorem led16_setWidth_eq_ofNat (bs : List Byte) (h : bs.length = 2) :
    (led16 bs).setWidth 64 = BitVec.ofNat 64 (le bs) :=
  ofNat_setWidth_of_lt 16 64 _ (by simpa only [h] using le_lt_two_pow bs)

/-- LED32 loses nothing of four bytes, and neither does the widening into VALUE (42_fixedwidth.md R122). -/
theorem led32_setWidth_eq_ofNat (bs : List Byte) (h : bs.length = 4) :
    (led32 bs).setWidth 64 = BitVec.ofNat 64 (le bs) :=
  ofNat_setWidth_of_lt 32 64 _ (by simpa only [h] using le_lt_two_pow bs)

/-- Over two bytes LED16 and LED64 with filler 0x00 make the same word of VALUE (42_fixedwidth.md R121). -/
theorem led16_setWidth_eq_du64Value (bs : List Byte) (h : bs.length = 2) :
    (led16 bs).setWidth 64 = du64Value bs := by
  rw [led16_setWidth_eq_ofNat bs h, du64Value_eq_ofNat bs (by omega)]

/-- Over four bytes LED32 and LED64 with filler 0x00 make the same word of VALUE (42_fixedwidth.md R123). -/
theorem led32_setWidth_eq_du64Value (bs : List Byte) (h : bs.length = 4) :
    (led32 bs).setWidth 64 = du64Value bs := by
  rw [led32_setWidth_eq_ofNat bs h, du64Value_eq_ofNat bs (by omega)]

theorem le_operand_two (s : State) :
    le (operand s 2) = (operandByte s 0).toNat + (operandByte s 1).toNat * 2 ^ 8 :=
  le_of_length_two (operand s 2) rfl

theorem le_operand_four (s : State) :
    le (operand s 4) = (operandByte s 0).toNat + (operandByte s 1).toNat * 2 ^ 8 +
      (operandByte s 2).toNat * 2 ^ 16 + (operandByte s 3).toNat * 2 ^ 24 :=
  le_of_length_four (operand s 4) rfl

/-- A widened word keeps the bound of its own width, so the upper bits of VALUE are zero (10_state.md R27). -/
theorem toNat_setWidth_lt {w : Nat} (v : Nat) (x : BitVec w) : (x.setWidth v).toNat < 2 ^ w := by
  rw [BitVec.toNat_setWidth]
  exact (Nat.mod_le _ _).trans_lt x.isLt

/-- ERRINFO gives back an expected range whose ends fit their fields (10_state.md R34). -/
theorem respond_expected (r : Response) (s : State) (hlo : r.lo ≤ 65535) (hhi : r.hi ≤ 65535) :
    (respond r s).expLo = r.lo ∧ (respond r s).expHi = r.hi := by
  obtain ⟨-, hexpLo, hexpHi⟩ := fields_of_errinfoWord _ _ _ _ (respond_errinfo r s)
  exact ⟨hexpLo.trans (Nat.mod_eq_of_lt (Nat.lt_succ_of_le hlo)),
    hexpHi.trans (Nat.mod_eq_of_lt (Nat.lt_succ_of_le hhi))⟩

/-- The registers after an instruction whose length is legal, field by field: VALUE from the operand, KIND 0, and
FN and the expected range of the operation. -/
theorem exec_fields_of_fwv (i : Instr) (s : State) (hv : fwv (instrOp i) i.len = true) :
    ∃ t, exec i s = .next t ∧ t.value = (instrFinish i (operand s i.len)).1 ∧ t.kind = 0 ∧
      t.fn = (instrOp i).code ∧ t.expLo = (instrOp i).lengthRule.lo ∧ t.expHi = (instrOp i).lengthRule.hi := by
  obtain ⟨hlo, hhi⟩ := lengthRule_le (instrOp i)
  refine ⟨_, exec_eq_command i s, ?_⟩
  rw [command_of_fwv _ _ _ _ hv]
  obtain ⟨hexpLo, hexpHi⟩ := respond_expected ⟨.none, _, _, _, _, _, _⟩ (s.afterRead i.len) hlo hhi
  exact ⟨respond_value .., kind_of_statusWord _ _ _ _ (respond_status ..), fn_of_statusWord _ _ _ _ (respond_status ..),
    hexpLo, hexpHi⟩

/-! ### The statements -/

/-- Settles O12, by whether the length is FWV's one length of DU16: the value of two bytes, or InvalidLength. -/
theorem du16ReadsTwoBytesOrReportsTheLength : Obligations.Du16ReadsTwoBytesOrReportsTheLength := by
  unfold Obligations.Du16ReadsTwoBytesOrReportsTheLength
  intro n s hn
  refine ⟨decode_ofNat (.du16 n) hn, ?_, fun hbad => ?_⟩
  · rintro rfl
    obtain ⟨t, ht, hholds, hout⟩ := exec_holds_of_fwv (.du16 2) s hn ((fwv_du16_iff 2).mpr rfl)
    have hbound : t.value.toNat < 2 ^ 16 := hholds.value_eq ▸ toNat_setWidth_lt 64 (led16 (operand s 2))
    rw [← le_operand_two, ← led16_setWidth_eq_ofNat _ (operand_length s 2)]
    exact ⟨t, ht, hholds, hbound, hout⟩
  · exact exec_holds_of_not_fwv (.du16 n) s hn (mt (fwv_du16_iff n).mp hbad)

/-- Settles O13, by whether the length is FWV's one length of DU32: the value of four bytes, or InvalidLength. -/
theorem du32ReadsFourBytesOrReportsTheLength : Obligations.Du32ReadsFourBytesOrReportsTheLength := by
  unfold Obligations.Du32ReadsFourBytesOrReportsTheLength
  intro n s hn
  refine ⟨decode_ofNat (.du32 n) hn, ?_, fun hbad => ?_⟩
  · rintro rfl
    obtain ⟨t, ht, hholds, hout⟩ := exec_holds_of_fwv (.du32 4) s hn ((fwv_du32_iff 4).mpr rfl)
    have hbound : t.value.toNat < 2 ^ 32 := hholds.value_eq ▸ toNat_setWidth_lt 64 (led32 (operand s 4))
    rw [← le_operand_four, ← led32_setWidth_eq_ofNat _ (operand_length s 4)]
    exact ⟨t, ht, hholds, hbound, hout⟩
  · exact exec_holds_of_not_fwv (.du32 n) s hn (mt (fwv_du32_iff n).mp hbad)

/-- Settles O46: over one operand both words are its value; the fields that differ come from the two operations'
rows of FWV's table, which also tell length 1 apart. -/
theorem fixedWidthAgreesWithDu64 : Obligations.FixedWidthAgreesWithDu64 := by
  unfold Obligations.FixedWidthAgreesWithDu64
  intro s
  refine ⟨?_, ?_, 1, by decide, by decide⟩
  · obtain ⟨t, ht, htvalue, htkind, htfn, htlo, hthi⟩ := exec_fields_of_fwv (.du16 2) s (by decide)
    obtain ⟨u, hu, huvalue, hukind, hufn, hulo, huhi⟩ := exec_fields_of_fwv (.du64 2) s (by decide)
    have hvalue := led16_setWidth_eq_du64Value _ (operand_length s 2)
    refine ⟨t, u, ht, hu, htvalue.trans (hvalue.trans huvalue.symm), htkind, hukind, ?_, ?_, ?_⟩
    · rw [htfn, hufn]; decide
    · rw [htlo, hulo]; decide
    · rw [hthi, huhi]; decide
  · obtain ⟨t, ht, htvalue, htkind, -⟩ := exec_fields_of_fwv (.du32 4) s (by decide)
    obtain ⟨u, hu, huvalue, hukind, -⟩ := exec_fields_of_fwv (.du64 4) s (by decide)
    have hvalue := led32_setWidth_eq_du64Value _ (operand_length s 4)
    exact ⟨t, u, ht, hu, htvalue.trans (hvalue.trans huvalue.symm), htkind, hukind⟩

end Sys2Proof.Machine

/-! PROOFS. The statements of 43_text.md: the zero-byte stripper (R130), the result of DTXT (R131), and UTF-16LE text
of ASCII characters (R133). -/

namespace Sys2Proof.Machine

/-! ### ZBS: the zero-byte stripper -/

theorem strip0_sublist (bs : List Byte) : (strip0 bs).Sublist bs :=
  strip0_eq_filter bs ▸ List.filter_sublist

theorem strip0_length (bs : List Byte) : (strip0 bs).length = bs.countP (fun b => b != 0) := by
  rw [strip0_eq_filter, List.countP_eq_length_filter]

theorem ne_zero_of_mem_strip0 (bs : List Byte) (b : Byte) (h : b ∈ strip0 bs) : b ≠ 0 := by
  rw [strip0_eq_filter] at h
  obtain ⟨-, hb⟩ := List.mem_filter.mp h
  exact bne_iff_ne.mp hb

/-- Where there is no 0x00, ZBS removes nothing. -/
theorem strip0_eq_self (bs : List Byte) (h : ∀ b ∈ bs, b ≠ 0) : strip0 bs = bs := by
  rw [strip0_eq_filter, List.filter_eq_self]
  exact fun b hb => bne_iff_ne.mpr (h b hb)

theorem strip0_append (as bs : List Byte) : strip0 (as ++ bs) = strip0 as ++ strip0 bs := by
  simp only [strip0_eq_filter, List.filter_append]

/-! ### UTF-16LE text of ASCII characters -/

/-- Characters as 43_text.md R133 lays them out: each low byte, then the high byte 0x00. -/
def asciiPairs (chars : List Byte) : List Byte := chars.flatMap fun c => [c, 0x00]

theorem asciiPairs_cons (c : Byte) (chars : List Byte) : asciiPairs (c :: chars) = c :: 0 :: asciiPairs chars := rfl

theorem strip0_asciiPairs (chars : List Byte) (h : ∀ c ∈ chars, c ≠ 0) : strip0 (asciiPairs chars) = chars := by
  induction chars with
  | nil => rfl
  | cons c chars ih =>
    obtain ⟨hc, hchars⟩ := List.forall_mem_cons.mp h
    rw [asciiPairs_cons, strip0_nonzero c _ hc, strip0_zero, ih hchars]

/-- The last byte of the layout is a high byte. -/
theorem asciiPairs_eq_dropLast_append (chars : List Byte) (h : chars ≠ []) :
    asciiPairs chars = (asciiPairs chars).dropLast ++ [0] := by
  obtain ⟨init, last, rfl⟩ := (List.eq_nil_or_concat' chars).resolve_left h
  have hsplit : asciiPairs (init ++ [last]) = (asciiPairs init ++ [last]) ++ [0] := by
    rw [asciiPairs, List.flatMap_append, List.append_assoc]
    rfl
  rw [hsplit, List.dropLast_concat]

/-- Without the last high byte the text is the same: ZBS would have removed it. -/
theorem strip0_asciiPairs_dropLast (chars : List Byte) (hne : chars ≠ []) (h : ∀ c ∈ chars, c ≠ 0) :
    strip0 (asciiPairs chars).dropLast = chars :=
  calc strip0 (asciiPairs chars).dropLast
      = strip0 ((asciiPairs chars).dropLast ++ [0]) := by rw [strip0_append, strip0_zero, strip0_nil, List.append_nil]
    _ = strip0 (asciiPairs chars) := by rw [← asciiPairs_eq_dropLast_append chars hne]
    _ = chars := strip0_asciiPairs chars h

/-! ### The outcome of DTXT -/

/-- DTXT has no upper limit but that of LEN itself (40_datapath_units.md R91). -/
theorem fwv_dtxt_iff (n : Nat) (h : n ≤ 65535) : fwv .dtxt n = true ↔ 1 ≤ n :=
  (fwv_iff .dtxt n).trans (and_iff_left h)

/-- TEXT and OLEN after DTXT of a legal length; the stripped operand is never too long for OLEN. -/
theorem exec_dtxt_text (n : Nat) (s : State) (h1 : 1 ≤ n) (hn : n ≤ 65535) :
    ∃ t, exec (.dtxt n) s = .next t ∧ t.text = strip0 (operand s n) ∧ t.olen = (strip0 (operand s n)).length := by
  have hlen : (strip0 (operand s n)).length ≤ n := (strip0_sublist _).length_le.trans_eq (operand_length s n)
  have hv : fwv (instrOp (.dtxt n)) (Instr.dtxt n).len = true := (fwv_dtxt_iff n hn).mpr h1
  refine ⟨_, exec_eq_command (.dtxt n) s, ?_⟩
  rw [command_of_fwv _ _ _ _ hv]
  exact ⟨respond_text .., (olen_of_statusWord _ _ _ _ (respond_status ..)).trans
    (Nat.mod_eq_of_lt (Nat.lt_succ_of_le (hlen.trans hn)))⟩

/-! ### The statements -/

/-- Settles O14, by whether the length is in FWV's range: the operand without its zero bytes, or EmptyInput. -/
theorem dtxtStripsZerosOrReportsEmptyInput : Obligations.DtxtStripsZerosOrReportsEmptyInput := by
  unfold Obligations.DtxtStripsZerosOrReportsEmptyInput
  intro n s hn
  refine ⟨decode_ofNat (.dtxt n) hn, fun h1 => ?_, ?_⟩
  · rw [← strip0_eq_filter]
    exact exec_holds_of_fwv (.dtxt n) s hn ((fwv_dtxt_iff n hn).mpr h1)
  · rintro rfl
    exact exec_holds_of_not_fwv (.dtxt 0) s hn (mt (fwv_dtxt_iff 0 hn).mp (by decide))

/-- Settles O48: ZBS is the filter of the non-zero bytes, and what it leaves holds nothing more to remove. -/
theorem stripKeepsTheNonzeroBytesInOrder : Obligations.StripKeepsTheNonzeroBytesInOrder := by
  unfold Obligations.StripKeepsTheNonzeroBytesInOrder
  refine ⟨fun bs => ?_, strip0_append⟩
  have hnonzero := ne_zero_of_mem_strip0 bs
  exact ⟨strip0_eq_filter bs, strip0_sublist bs, strip0_length bs, (strip0_sublist bs).length_le, hnonzero,
    strip0_eq_self _ hnonzero⟩

/-- Settles O49: ZBS takes the high bytes away and leaves the characters, none of which is 0x00; the last high byte
and a pair 00 00 add nothing to the text. -/
theorem asciiTextComesOutAsItsLowBytes : Obligations.AsciiTextComesOutAsItsLowBytes := by
  unfold Obligations.AsciiTextComesOutAsItsLowBytes
  refine ⟨fun chars s hlen hascii => ?_, fun as bs => ?_⟩
  · have hnonzero : ∀ c ∈ chars, c ≠ 0 := by
      rintro c hc rfl
      exact absurd (hascii 0 hc).1 (by decide)
    refine ⟨fun hmax hoperand => ?_, fun hmax hoperand => ?_⟩
    · have hstrip : strip0 (operand s (2 * chars.length)) = chars := by
        rw [hoperand]
        exact strip0_asciiPairs chars hnonzero
      simpa only [hstrip] using exec_dtxt_text (2 * chars.length) s (by omega) hmax
    · have hstrip : strip0 (operand s (2 * chars.length - 1)) = chars := by
        rw [hoperand]
        exact strip0_asciiPairs_dropLast chars (List.ne_nil_of_length_pos hlen) hnonzero
      simpa only [hstrip] using exec_dtxt_text (2 * chars.length - 1) s (by omega) hmax
  · rw [strip0_append, strip0_append, strip0_zero, strip0_zero, strip0_nil, List.append_nil]

end Sys2Proof.Machine

/-! PROOFS. The statements of 60_exceptions.md: which words raise each error (R142 to R145), the order of the checks
(R148), the one error response (R141), and that errors are not sticky (R149, R150). -/

namespace Sys2Proof.Machine

/-! ### The kind a word fixes -/

/-- A length outside the range of the word's operation (40_datapath_units.md R91). -/
abbrev LengthOutside (c : Command) : Prop :=
  wordLen c < (legalRange (wordOp c)).1 ∨ (legalRange (wordOp c)).2 < wordLen c

/-- KIND as the checks of 60_exceptions.md R148 give it, in their order, over the numbers of the word alone;
`hostIssue_kind` ties it to the machine. -/
def wordKind (c : Command) : BitVec 2 :=
  if ¬ LegalWord c then 3 else if LengthOutside c then (if wordOp c = 5 then 2 else 1) else 0

theorem wordKind_of_not_legalWord (c : Command) (h : ¬ LegalWord c) : wordKind c = 3 :=
  if_pos h

/-- The kind of each operation's length error: EmptyInput for DTXT, InvalidLength for the others. -/
theorem lengthRule_kind_code_eq (op : Op) : op.lengthRule.kind.code = if op.code.toNat = 5 then 2 else 1 :=
  BitVec.eq_of_toNat_eq (by rw [lengthRule_kind_code]; split <;> rfl)

/-- For a word that decodes, only the length check is left to decide. -/
theorem wordKind_of_decode_ok (c : Command) (i : Instr) (h : decode c = .ok i) :
    wordKind c = if fwv (instrOp i) i.len = true then 0 else (instrOp i).lengthRule.kind.code := by
  obtain ⟨hlegal, hop⟩ := legalWord_of_decode_ok c i h
  rw [wordKind, if_neg (not_not.mpr hlegal), lengthRule_kind_code_eq, hop, ← ite_not]
  exact if_congr (fwv_of_decode_iff c i h).symm rfl rfl

theorem hostIssue_kind (c : Command) (s t : State) (h : hostIssue c s = .next t) : t.kind = wordKind c := by
  cases hd : decode c with
  | error e =>
    cases (hostIssue_of_decode_error c e s hd).symm.trans h
    rw [wordKind_of_not_legalWord c (not_legalWord_of_decode_error c e hd)]
    exact kind_of_statusWord _ _ _ _ (raiseError_status ..)
  | ok i =>
    cases (hostIssue_of_decode_ok c i s hd).symm.trans h
    rw [wordKind_of_decode_ok c i hd]
    by_cases hv : fwv (instrOp i) i.len = true
    · rw [if_pos hv, command_of_fwv _ _ _ _ hv]
      exact kind_of_statusWord _ _ _ _ (respond_status ..)
    · rw [if_neg hv, command_of_not_fwv _ _ _ _ hv]
      exact kind_of_statusWord _ _ _ _ (raiseError_status ..)

/-- Every command completes, with the kind its word fixes (40_datapath_units.md R101, 60_exceptions.md R145). -/
theorem hostIssue_next_kind (c : Command) (s : State) : ∃ t, hostIssue c s = .next t ∧ t.kind = wordKind c := by
  obtain ⟨r, d, ht, -⟩ := hostIssue_responds c s
  exact ⟨_, ht, hostIssue_kind c s _ ht⟩

/-- The operation of a legal word is one of the five. -/
theorem LegalWord.op_cases (c : Command) (h : LegalWord c) :
    wordOp c = 1 ∨ wordOp c = 2 ∨ wordOp c = 3 ∨ wordOp c = 4 ∨ wordOp c = 5 := by
  simp only [LegalWord, wordOp] at h ⊢
  omega

/-- A length error is raised past the first check and at the second (60_exceptions.md R148). -/
theorem wordKind_eq_lengthError_iff (c : Command) (k : BitVec 2) (h0 : k ≠ 0) (h3 : k ≠ 3) :
    wordKind c = k ↔ LegalWord c ∧ LengthOutside c ∧ (if wordOp c = 5 then 2 else 1) = k := by
  by_cases hlegal : LegalWord c
  · rw [wordKind, if_neg (not_not.mpr hlegal), and_iff_right hlegal]
    by_cases hout : LengthOutside c
    · rw [if_pos hout, and_iff_right hout]
    · rw [if_neg hout]
      exact iff_of_false h0.symm fun ⟨h, _⟩ => hout h
  · rw [wordKind_of_not_legalWord c hlegal]
    exact iff_of_false h3.symm fun ⟨h, _⟩ => hlegal h

theorem wordKind_eq_one_iff (c : Command) : wordKind c = 1 ↔ LegalWord c ∧ LengthOutside c ∧ wordOp c ≠ 5 := by
  rw [wordKind_eq_lengthError_iff c 1 (by decide) (by decide)]
  split <;> simp [*]

theorem wordKind_eq_two_iff (c : Command) : wordKind c = 2 ↔ LegalWord c ∧ LengthOutside c ∧ wordOp c = 5 := by
  rw [wordKind_eq_lengthError_iff c 2 (by decide) (by decide)]
  split <;> simp [*]

/-- LEN is a 16-bit field (30_encoding.md R72). -/
theorem wordLen_le (c : Command) : wordLen c ≤ 65535 :=
  Nat.le_of_lt_succ (Nat.mod_lt _ (by decide))

/-- LEN never exceeds DTXT's range, so it is outside it only by being 0. -/
theorem lengthOutside_dtxt_iff (c : Command) (h : wordOp c = 5) : LengthOutside c ↔ wordLen c = 0 := by
  have hlen := wordLen_le c
  simp only [LengthOutside, h, legalRange]
  omega

/-- The ranges of the four integer operations, as the lengths outside them (60_exceptions.md R142). -/
theorem lengthOutside_integer_iff (c : Command) (h : LegalWord c) :
    LengthOutside c ∧ wordOp c ≠ 5 ↔
      (wordOp c = 1 ∧ (wordLen c = 0 ∨ 9 ≤ wordLen c)) ∨ (wordOp c = 2 ∧ (wordLen c = 0 ∨ 9 ≤ wordLen c)) ∨
        (wordOp c = 3 ∧ wordLen c ≠ 2) ∨ (wordOp c = 4 ∧ wordLen c ≠ 4) := by
  have hop := h.op_cases
  unfold LengthOutside
  generalize wordOp c = op at hop ⊢
  rcases hop with rfl | rfl | rfl | rfl | rfl <;> simp only [legalRange, true_and] <;> omega

/-! ### The error response -/

/-- A word with an error kind raises one error, the same from every state: no check reads the state
(60_exceptions.md R141, R145). -/
theorem hostIssue_raises (c : Command) (h : wordKind c ≠ 0) :
    ∃ (k : Kind) (fn : BitVec 3), k.code = wordKind c ∧ fn.toNat = wordOp c ∧
      ∀ s, hostIssue c s = .next (raiseError k fn (wordLen c)
        (if wordKind c = 3 then 0 else (legalRange (wordOp c)).1)
        (if wordKind c = 3 then 0 else (legalRange (wordOp c)).2) s) := by
  cases hd : decode c with
  | error e =>
    obtain ⟨hop, hlen, -, -⟩ := wordFields_toNat c
    have hk := wordKind_of_not_legalWord c (not_legalWord_of_decode_error c e hd)
    refine ⟨.illegalCommand, opField c, hk.symm, hop, fun s => ?_⟩
    rw [hostIssue_of_decode_error c e s hd, hlen, if_pos hk, if_pos hk]
  | ok i =>
    obtain ⟨-, hop⟩ := legalWord_of_decode_ok c i hd
    have hrange := lengthRule_eq_legalRange (instrOp i)
    have hk := wordKind_of_decode_ok c i hd
    have hv : ¬ fwv (instrOp i) i.len = true := fun hv => h (hk.trans (if_pos hv))
    rw [if_neg hv] at hk
    have hne : wordKind c ≠ 3 := by
      rw [hk, lengthRule_kind_code_eq]
      split <;> decide
    refine ⟨(instrOp i).lengthRule.kind, (instrOp i).code, hk.symm, hop, fun s => ?_⟩
    rw [hostIssue_of_decode_ok c i s hd, command_of_not_fwv _ _ _ _ hv, len_of_decode c i hd, if_neg hne, if_neg hne,
      ← hop, ← hrange]

/-- The registers after an error, as numbers (60_exceptions.md R141). -/
theorem hostIssue_holds_of_error (c : Command) (s t : State) (ht : hostIssue c s = .next t) (h : wordKind c ≠ 0) :
    HoldsResponse t (wordKind c).toNat (wordOp c) (wordLen c)
      (if wordKind c = 3 then 0 else (legalRange (wordOp c)).1)
      (if wordKind c = 3 then 0 else (legalRange (wordOp c)).2) 0 [] := by
  obtain ⟨k, fn, hk, hfn, hraise⟩ := hostIssue_raises c h
  obtain ⟨hlo, hhi⟩ := legalRange_le (wordOp c)
  have hlo' : (if wordKind c = 3 then 0 else (legalRange (wordOp c)).1) ≤ 65535 := by split <;> omega
  have hhi' : (if wordKind c = 3 then 0 else (legalRange (wordOp c)).2) ≤ 65535 := by split <;> omega
  have hholds := respond_holds ⟨k, fn, wordLen c, _, _, 0, []⟩ s (Nat.zero_le _) (wordLen_le c) hlo' hhi'
  rw [hk, hfn] at hholds
  cases (hraise s).symm.trans ht
  exact hholds

/-- An error's response is the same from every state, whatever IBUF holds (60_exceptions.md R141). -/
theorem hostIssue_sameResponse_of_error (c : Command) (s t s' : State) (ht : hostIssue c s = .next t)
    (h : wordKind c ≠ 0) : ∃ t', hostIssue c s' = .next t' ∧ SameResponse t t' := by
  obtain ⟨k, fn, -, -, hraise⟩ := hostIssue_raises c h
  cases (hraise s).symm.trans ht
  exact ⟨_, hraise s', raiseError_sameResponse _ _ _ _ _ s s'⟩

/-! ### What stood in the response before -/

section overwrite
variable (s : State) (v e : BitVec 64) (w : BitVec 32) (x : List Byte)

/-- A command overwrites the response whole and reads nothing of it, whether its length passes or not
(60_exceptions.md R150). -/
theorem command_overwrites (op : Op) (len : Nat) (finish : List Byte → BitVec 64 × List Byte) :
    command op len finish { s with value := v, status := w, errinfo := e, text := x } = command op len finish s := by
  by_cases hv : fwv op len = true
  · rw [command_of_fwv _ _ _ _ hv, command_of_fwv _ _ _ _ hv]
    rfl
  · rw [command_of_not_fwv _ _ _ _ hv, command_of_not_fwv _ _ _ _ hv]
    rfl

theorem hostIssue_overwrites (c : Command) :
    hostIssue c { s with value := v, status := w, errinfo := e, text := x } = hostIssue c s := by
  cases hd : decode c with
  | ok i => rw [hostIssue_of_decode_ok c i _ hd, hostIssue_of_decode_ok c i _ hd, command_overwrites]
  | error err =>
    rw [hostIssue_of_decode_error c err _ hd, hostIssue_of_decode_error c err _ hd]
    rfl

end overwrite

/-- An error writes the response alone, not even the count of draws: the next command overwrites all of it. -/
theorem hostIssue_after_error (c c' : Command) (s t : State) (ht : hostIssue c s = .next t) (h : wordKind c ≠ 0) :
    hostIssue c' t = hostIssue c' s := by
  obtain ⟨k, fn, -, -, hraise⟩ := hostIssue_raises c h
  cases (hraise s).symm.trans ht
  exact hostIssue_overwrites s _ _ _ _ c'

/-! ### The statements -/

/-- Settles O20: the kind of the word is the chain of checks itself. -/
theorem kindFollowsTheOrderOfChecks : Obligations.KindFollowsTheOrderOfChecks := by
  unfold Obligations.KindFollowsTheOrderOfChecks
  exact hostIssue_next_kind

/-- Settles O15: an illegal word has the kind 3 and so the error response, whose range is then 0 and 0. -/
theorem illegalWordsAnswerIllegalCommand : Obligations.IllegalWordsAnswerIllegalCommand := by
  unfold Obligations.IllegalWordsAnswerIllegalCommand
  intro c s hillegal
  obtain ⟨t, ht, -⟩ := hostIssue_next_kind c s
  have hk := wordKind_of_not_legalWord c hillegal
  have hholds := hostIssue_holds_of_error c s t ht (by rw [hk]; decide)
  rw [hk] at hholds
  exact ⟨t, ht, hholds, hostIssue_sameOutside c s t ht⟩

/-- Settles O18, by the operation of the word: kind 1 is a length outside the range of an operation other than DTXT,
and ERRINFO holds that range. -/
theorem invalidLengthExactlyOutsideTheRange : Obligations.InvalidLengthExactlyOutsideTheRange := by
  unfold Obligations.InvalidLengthExactlyOutsideTheRange
  intro c s
  obtain ⟨t, ht, -, -, hlo, hhi, -⟩ := fnAndErrinfoComeFromTheWord c s
  refine ⟨t, ht, ?_⟩
  rw [hostIssue_kind c s t ht, wordKind_eq_one_iff]
  refine ⟨and_congr_right (lengthOutside_integer_iff c), ?_⟩
  rintro ⟨hlegal, -, hne⟩
  rw [hlo, hhi, if_pos hlegal, if_pos hlegal]
  rcases hlegal.op_cases with hop | hop | hop | hop | hop
  · exact .inl ⟨hop, by rw [hop]; exact ⟨rfl, rfl⟩⟩
  · exact .inr (.inl ⟨hop, by rw [hop]; exact ⟨rfl, rfl⟩⟩)
  · exact .inr (.inr (.inl ⟨hop, by rw [hop]; exact ⟨rfl, rfl⟩⟩))
  · exact .inr (.inr (.inr ⟨hop, by rw [hop]; exact ⟨rfl, rfl⟩⟩))
  · exact absurd hop hne

/-- Settles O19: kind 2 is a length outside DTXT's range, and its error response is that of FN 5 and LEN 0. -/
theorem emptyInputExactlyForEmptyText : Obligations.EmptyInputExactlyForEmptyText := by
  unfold Obligations.EmptyInputExactlyForEmptyText
  intro c s
  obtain ⟨t, ht, htk⟩ := hostIssue_next_kind c s
  have hiff : wordKind c = 2 ↔ LegalWord c ∧ wordOp c = 5 ∧ wordLen c = 0 := by
    rw [wordKind_eq_two_iff, and_comm (a := LengthOutside c)]
    exact and_congr_right fun _ => and_congr_right (lengthOutside_dtxt_iff c)
  refine ⟨t, ht, ?_⟩
  rw [htk]
  refine ⟨hiff, fun hk => ?_⟩
  obtain ⟨-, hop, hlen⟩ := hiff.mp hk
  have hholds := hostIssue_holds_of_error c s t ht (by rw [hk]; decide)
  rw [hk, hop, hlen] at hholds
  exact hholds

/-- Settles O21: a nonzero KIND is the word's, and every word with such a kind raises its error from every state. -/
theorem everyErrorLeavesTheErrorResponse : Obligations.EveryErrorLeavesTheErrorResponse := by
  unfold Obligations.EveryErrorLeavesTheErrorResponse
  intro c s t ht hk
  rw [hostIssue_kind c s t ht] at hk ⊢
  exact ⟨hostIssue_holds_of_error c s t ht hk, hostIssue_sameOutside c s t ht,
    fun m => hostIssue_sameResponse_of_error c s t { s with ibuf := m } ht hk⟩

/-- Settles O22: an error changes the response alone, and every command overwrites the response. -/
theorem errorsAreNotSticky : Obligations.ErrorsAreNotSticky := by
  unfold Obligations.ErrorsAreNotSticky
  refine ⟨fun c c' s t ht hk => ?_, fun c s v e w x => hostIssue_overwrites s v e w x c⟩
  rw [hostIssue_kind c s t ht] at hk
  exact ⟨hostIssue_sameOutside c s t ht, hostIssue_after_error c c' s t ht hk⟩

end Sys2Proof.Machine

/-! PROOFS. The statements of 30_encoding.md about the decoder and the encoder: each is the other's inverse (R70, R77),
and the match-and-mask form of the opcode map (R75). -/

namespace Sys2Proof.Machine

/-! ### Words as numbers -/

/-- A legal word is its LEN and OP fields: Z1 and Z2, the other bits, are zero (30_encoding.md R70). -/
theorem LegalWord.toNat_eq (c : Command) (h : LegalWord c) : c.toNat = wordLen c * 256 + wordOp c := by
  simp only [LegalWord, wordLen, wordOp] at h ⊢
  omega

theorem instrOp_code (i : Instr) : (instrOp i).code = i.opBits := by
  cases i <;> rfl

/-- The words that decode to an instruction are those with the number of its fields, and there is one at most
(30_encoding.md R77). -/
theorem decode_eq_ok_iff_toNat (c : Command) (i : Instr) :
    decode c = .ok i ↔ i.WellFormed ∧ c.toNat = i.len * 256 + i.opBits.toNat := by
  constructor
  · intro h
    obtain ⟨hlegal, hop⟩ := legalWord_of_decode_ok c i h
    have hlen := len_of_decode c i h
    exact ⟨hlen.trans_le (wordLen_le c), by rw [hlegal.toNat_eq, hlen, ← instrOp_code, hop]⟩
  · rintro ⟨hwf, hc⟩
    exact decode_of_toNat_eq c i hwf hc

theorem decode_encode (i : Instr) (h : i.WellFormed) : decode (encode i) = .ok i :=
  (decode_eq_ok_iff_toNat _ i).mpr ⟨h, encode_toNat i h⟩

/-! ### The mask of the opcode map -/

/-- The mask keeps Z2, Z1 and OP and clears LEN (30_encoding.md R75). -/
theorem and_mask_eq_append (c : Command) :
    c &&& 0xFF0000FF#32 = c.extractLsb' 24 8 ++ 0#16 ++ c.extractLsb' 0 8 := by
  have hsplit : c = c.extractLsb' 24 8 ++ c.extractLsb' 8 16 ++ c.extractLsb' 0 8 := by
    rw [BitVec.extractLsb'_append_extractLsb'_eq_extractLsb' (by decide),
      BitVec.extractLsb'_append_extractLsb'_eq_extractLsb' (by decide)]
    exact BitVec.extractLsb'_eq_self.symm
  have hmask : 0xFF0000FF#32 = BitVec.allOnes 8 ++ 0#16 ++ BitVec.allOnes 8 := rfl
  conv_lhs => rw [hsplit, hmask]
  rw [BitVec.and_append, BitVec.and_append, BitVec.and_allOnes, BitVec.and_allOnes, BitVec.and_zero]

theorem and_mask_toNat (c : Command) :
    (c &&& 0xFF0000FF#32).toNat = c.toNat / 2 ^ 24 * 2 ^ 24 + c.toNat % 2 ^ 8 := by
  have hc := c.isLt
  rw [and_mask_eq_append]
  simp only [append_toNat, BitVec.extractLsb'_toNat, BitVec.toNat_ofNat, Nat.shiftRight_eq_div_pow]
  omega

/-- The masked bits of a word are an OP code exactly when the rest of the word is its LEN field. -/
theorem and_mask_eq_iff (c : Command) (op : BitVec 3) :
    c &&& 0xFF0000FF#32 = op.setWidth 32 ↔ c.toNat = wordLen c * 256 + op.toNat := by
  have hc := c.isLt
  have hop := op.isLt
  rw [← BitVec.toNat_inj, and_mask_toNat, BitVec.toNat_setWidth]
  simp only [wordLen]
  omega

/-- The match-and-mask form of decoding, once for all five rows (30_encoding.md R75). -/
theorem decode_eq_ok_iff_mask (c : Command) (i : Instr) :
    decode c = .ok i ↔ c &&& 0xFF0000FF#32 = i.opBits.setWidth 32 ∧ i.len = wordLen c := by
  rw [and_mask_eq_iff]
  constructor
  · intro h
    have hlen := len_of_decode c i h
    obtain ⟨-, hc⟩ := (decode_eq_ok_iff_toNat c i).mp h
    exact ⟨hlen ▸ hc, hlen⟩
  · rintro ⟨hc, hlen⟩
    exact (decode_eq_ok_iff_toNat c i).mpr ⟨hlen.trans_le (wordLen_le c), hlen.symm ▸ hc⟩

/-! ### The statements -/

/-- Settles O1: the encoder writes the fields of the instruction, and the decoder reads them back. -/
theorem decodeOfEncodeIsTheInstruction : Obligations.DecodeOfEncodeIsTheInstruction := by
  unfold Obligations.DecodeOfEncodeIsTheInstruction
  exact decode_encode

/-- Settles O2: a word that decodes has the number of its instruction's fields, and so has the encoding. -/
theorem encodeOfDecodedIsTheWord : Obligations.EncodeOfDecodedIsTheWord := by
  unfold Obligations.EncodeOfDecodedIsTheWord
  intro c i h
  obtain ⟨hwf, hc⟩ := (decode_eq_ok_iff_toNat c i).mp h
  exact ⟨hwf, BitVec.eq_of_toNat_eq ((encode_toNat i hwf).trans hc.symm)⟩

/-- Settles O3: the masked bits hold the OP code of each row, with Z1 and Z2 zero; the decoder is total, and what it
refuses is not legal. -/
theorem wordsDecodeExactlyByMaskAndMatch : Obligations.WordsDecodeExactlyByMaskAndMatch := by
  unfold Obligations.WordsDecodeExactlyByMaskAndMatch
  intro c n
  exact ⟨decode_eq_ok_iff_mask c (.ds64 n), decode_eq_ok_iff_mask c (.du64 n), decode_eq_ok_iff_mask c (.du16 n),
    decode_eq_ok_iff_mask c (.du32 n), decode_eq_ok_iff_mask c (.dtxt n),
    fun ⟨e, he⟩ => not_legalWord_of_decode_error c e he, decode_error_of_not_legalWord c⟩

/-- Settles O5: each word is the number of its instruction's LEN and OP fields. -/
theorem specExampleWordsDecode : Obligations.SpecExampleWordsDecode := by
  unfold Obligations.SpecExampleWordsDecode
  exact ⟨decode_ofNat (.ds64 3) (by decide), decode_ofNat (.du64 3) (by decide), decode_ofNat (.du16 2) (by decide),
    decode_ofNat (.du32 4) (by decide), decode_ofNat (.dtxt 7) (by decide)⟩

end Sys2Proof.Machine

/-! PROOFS. The statements of 10_state.md about the invariants of every reachable state (R42, with R36, and
20_memory.md R50). -/

namespace Sys2Proof.Machine

/-! ### The invariants over a response -/

/-- The invariants of R42 as facts of the response a command writes, before its numbers are narrowed to their fields;
`respond_inv` ties them to `State.Inv`. -/
structure Response.Inv (r : Response) : Prop where
  received_le : r.received ≤ 65535
  lo_le : r.lo ≤ 65535
  hi_le : r.hi ≤ 65535
  errorIsZero : r.kind ≠ .none → r.value = 0 ∧ r.text = []
  invalidLength : r.kind = .invalidLength →
    (r.fn = 1 ∨ r.fn = 2 ∨ r.fn = 3 ∨ r.fn = 4) ∧ (r.received < r.lo ∨ r.hi < r.received)
  emptyInput : r.kind = .emptyInput → r.fn = 5 ∧ r.received = 0 ∧ r.lo = 1 ∧ r.hi = 65535
  illegalCommand : r.kind = .illegalCommand → r.lo = 0 ∧ r.hi = 0
  success : r.kind = .none →
    (r.fn = 1 ∨ r.fn = 2 ∨ r.fn = 3 ∨ r.fn = 4 ∨ r.fn = 5) ∧ r.lo ≤ r.received ∧ r.received ≤ r.hi
  outputs : (r.fn ≠ 5 → r.text = []) ∧ (r.fn = 5 → r.value = 0)
  fixedWidth : (r.fn = 3 → r.value.toNat < 2 ^ 16) ∧ (r.fn = 4 → r.value.toNat < 2 ^ 32)
  textBytes : r.text.length ≤ r.received ∧ ∀ b ∈ r.text, b ≠ 0

/-- The reserved bits of STATUS (10_state.md R28). -/
theorem statusWord_reserved (k : Kind) (fn : BitVec 3) (n : Nat) :
    (statusWord k fn n).extractLsb' 6 2 = 0 ∧ (statusWord k fn n).extractLsb' 24 8 = 0 := by
  unfold statusWord
  constructor
  · ext i hi
    simp
    grind
  · ext i hi
    simp
    grind

/-- The reserved bits of ERRINFO (10_state.md R34). -/
theorem errinfoWord_reserved (received lo hi : Nat) : (errinfoWord received lo hi).extractLsb' 48 16 = 0 := by
  unfold errinfoWord
  ext i hi
  simp
  grind

theorem Kind.code_injective : Function.Injective Kind.code := by
  intro k k'
  cases k <;> cases k' <;> decide

/-- Each field of the written registers reads back what the response holds, so the invariants of the response are
those of the state. -/
theorem respond_inv (r : Response) (s : State) (hr : r.Inv) (hwf : s.ibuf.wf = true) : (respond r s).Inv := by
  have hstatus := respond_status r s
  have hdone := done_of_statusWord _ _ _ _ hstatus
  have hkind := kind_of_statusWord _ _ _ _ hstatus
  have hfn := fn_of_statusWord _ _ _ _ hstatus
  obtain ⟨hrec, -, -⟩ := fields_of_errinfoWord _ _ _ _ (respond_errinfo r s)
  rw [Nat.mod_eq_of_lt (Nat.lt_succ_of_le hr.received_le)] at hrec
  obtain ⟨hlo, hhi⟩ := respond_expected r s hr.lo_le hr.hi_le
  have holen : (respond r s).olen = r.text.length :=
    (olen_of_statusWord _ _ _ _ hstatus).trans
      (Nat.mod_eq_of_lt (Nat.lt_succ_of_le (hr.textBytes.1.trans hr.received_le)))
  have hcode : ∀ k : Kind, (respond r s).kind = k.code → r.kind = k :=
    fun k hk => Kind.code_injective (hkind.symm.trans hk)
  refine
    { reserved := ⟨(statusWord_reserved _ _ _).1, (statusWord_reserved _ _ _).2, errinfoWord_reserved _ _ _⟩
      beforeFirst := fun h => absurd (hdone.symm.trans h) (by decide)
      errorIsZero := fun h => ?_
      invalidLength := fun h => ?_
      emptyInput := fun h => ?_
      illegalCommand := fun h => ?_
      success := fun _ h => ?_
      outputs := ?_
      fixedWidth := ?_
      textBytes := ?_
      textLength := holen.symm
      ibufWf := hwf }
  · obtain ⟨hvalue, htext⟩ := hr.errorIsZero fun hk => h (by rw [hkind, hk]; rfl)
    exact ⟨hvalue, by rw [holen, htext]; rfl⟩
  · rw [hfn, hrec, hlo, hhi]; exact hr.invalidLength (hcode .invalidLength h)
  · rw [hfn, hrec, hlo, hhi]; exact hr.emptyInput (hcode .emptyInput h)
  · rw [hlo, hhi]; exact hr.illegalCommand (hcode .illegalCommand h)
  · rw [hfn, hrec, hlo, hhi]; exact hr.success (hcode .none h)
  · rw [hfn, holen]; exact ⟨fun h => List.length_eq_zero_iff.mpr (hr.outputs.1 h), hr.outputs.2⟩
  · rw [hfn]; exact hr.fixedWidth
  · rw [holen, hrec]; exact hr.textBytes

/-! ### What each instruction writes -/

/-- FN of a decoded instruction is one of the five operations' (10_state.md R31). -/
theorem Op.code_cases (op : Op) : op.code = 1 ∨ op.code = 2 ∨ op.code = 3 ∨ op.code = 4 ∨ op.code = 5 := by
  cases op <;> decide

theorem Op.code_injective : Function.Injective Op.code := by
  intro op op'
  cases op <;> cases op' <;> decide

/-- Only DTXT makes text, and it makes no number (43_text.md R131, R132). -/
theorem instrFinish_outputs (i : Instr) (bs : List Byte) :
    (instrOp i ≠ .dtxt → (instrFinish i bs).2 = []) ∧ (instrOp i = .dtxt → (instrFinish i bs).1 = 0) := by
  cases i with
  | dtxt len => exact ⟨fun h => absurd rfl h, fun _ => rfl⟩
  | _ => exact ⟨fun _ => rfl, nofun⟩

/-- The number of a fixed-width operation fits its width (10_state.md R27). -/
theorem instrFinish_fixedWidth (i : Instr) (bs : List Byte) :
    (instrOp i = .du16 → (instrFinish i bs).1.toNat < 2 ^ 16) ∧
    (instrOp i = .du32 → (instrFinish i bs).1.toNat < 2 ^ 32) := by
  cases i with
  | du16 len => exact ⟨fun _ => toNat_setWidth_lt 64 (led16 bs), nofun⟩
  | du32 len => exact ⟨nofun, fun _ => toNat_setWidth_lt 64 (led32 bs)⟩
  | _ => exact ⟨nofun, nofun⟩

/-- TEXT is no longer than the operand and holds no 0x00 (43_text.md R130). -/
theorem instrFinish_textBytes (i : Instr) (bs : List Byte) :
    (instrFinish i bs).2.length ≤ bs.length ∧ ∀ b ∈ (instrFinish i bs).2, b ≠ 0 := by
  cases i with
  | dtxt len => exact ⟨(strip0_sublist bs).length_le, ne_zero_of_mem_strip0 bs⟩
  | _ => exact ⟨Nat.zero_le _, nofun⟩

/-- The response of an instruction whose length passes the check. -/
theorem Response.inv_of_fwv (i : Instr) (bs : List Byte) (hwf : i.WellFormed) (hlen : bs.length = i.len)
    (hv : fwv (instrOp i) i.len = true) :
    Response.Inv ⟨.none, (instrOp i).code, i.len, (instrOp i).lengthRule.lo, (instrOp i).lengthRule.hi,
      (instrFinish i bs).1, (instrFinish i bs).2⟩ := by
  have hop : ∀ op : Op, (instrOp i).code = op.code → instrOp i = op := fun op h => Op.code_injective h
  obtain ⟨htext, hvalue⟩ := instrFinish_outputs i bs
  obtain ⟨h16, h32⟩ := instrFinish_fixedWidth i bs
  exact
    { received_le := hwf
      lo_le := (lengthRule_le _).1
      hi_le := (lengthRule_le _).2
      errorIsZero := fun h => absurd rfl h
      invalidLength := nofun
      emptyInput := nofun
      illegalCommand := nofun
      success := fun _ => ⟨(instrOp i).code_cases, (fwv_iff _ _).mp hv⟩
      outputs := ⟨fun h => htext fun ho => h (congrArg Op.code ho), fun h => hvalue (hop .dtxt h)⟩
      fixedWidth := ⟨fun h => h16 (hop .du16 h), fun h => h32 (hop .du32 h)⟩
      textBytes := hlen ▸ instrFinish_textBytes i bs }

/-- The kind of an operation's length error fixes the operation: InvalidLength is not DTXT's, and EmptyInput is
DTXT's alone, with its range (60_exceptions.md R142, R144). -/
theorem lengthRule_kind_facts (op : Op) :
    (op.lengthRule.kind = .invalidLength → op.code = 1 ∨ op.code = 2 ∨ op.code = 3 ∨ op.code = 4) ∧
    (op.lengthRule.kind = .emptyInput → op.code = 5 ∧ op.lengthRule.lo = 1 ∧ op.lengthRule.hi = 65535) ∧
    op.lengthRule.kind ≠ .illegalCommand := by
  cases op <;> decide

/-- An error response meets every invariant that its default output decides; what its KIND says of FN and ERRINFO is
left to show. -/
theorem Response.inv_of_error (k : Kind) (fn : BitVec 3) (received lo hi : Nat) (hrec : received ≤ 65535)
    (hlo : lo ≤ 65535) (hhi : hi ≤ 65535) (hk : k ≠ .none)
    (hinvalid : k = .invalidLength → (fn = 1 ∨ fn = 2 ∨ fn = 3 ∨ fn = 4) ∧ (received < lo ∨ hi < received))
    (hempty : k = .emptyInput → fn = 5 ∧ received = 0 ∧ lo = 1 ∧ hi = 65535)
    (hillegal : k = .illegalCommand → lo = 0 ∧ hi = 0) :
    Response.Inv ⟨k, fn, received, lo, hi, 0, []⟩ :=
  { received_le := hrec
    lo_le := hlo
    hi_le := hhi
    errorIsZero := fun _ => ⟨rfl, rfl⟩
    invalidLength := hinvalid
    emptyInput := hempty
    illegalCommand := hillegal
    success := fun h => absurd h hk
    outputs := ⟨fun _ => rfl, fun _ => rfl⟩
    fixedWidth := ⟨fun _ => Nat.two_pow_pos 16, fun _ => Nat.two_pow_pos 32⟩
    textBytes := ⟨Nat.zero_le _, nofun⟩ }

/-- The response of an instruction whose length fails the check. -/
theorem Response.inv_of_not_fwv (op : Op) (len : Nat) (hlen : len ≤ 65535) (hv : ¬ fwv op len = true) :
    Response.Inv ⟨op.lengthRule.kind, op.code, len, op.lengthRule.lo, op.lengthRule.hi, 0, []⟩ := by
  obtain ⟨hlo, hhi⟩ := lengthRule_le op
  obtain ⟨hinvalid, hempty, hillegal⟩ := lengthRule_kind_facts op
  have hout : len < op.lengthRule.lo ∨ op.lengthRule.hi < len := by
    rw [fwv_iff] at hv
    omega
  refine Response.inv_of_error _ _ _ _ _ hlen hlo hhi (lengthRule_kind_ne_none op)
    (fun h => ⟨hinvalid h, hout⟩) (fun h => ?_) fun h => absurd h hillegal
  obtain ⟨hfn, hlo1, hhi5⟩ := hempty h
  exact ⟨hfn, by omega, hlo1, hhi5⟩

/-- The response of an illegal word (60_exceptions.md R143). -/
theorem Response.inv_of_illegal (fn : BitVec 3) (received : Nat) (h : received ≤ 65535) :
    Response.Inv ⟨.illegalCommand, fn, received, 0, 0, 0, []⟩ :=
  Response.inv_of_error _ _ _ _ _ h (Nat.zero_le _) (Nat.zero_le _) nofun nofun nofun fun _ => ⟨rfl, rfl⟩

/-! ### What each host action keeps -/

/-- A command meets the invariants whatever response stood there before: it writes the whole of it. -/
theorem hostIssue_inv (c : Command) (s t : State) (hwf : s.ibuf.wf = true) (h : hostIssue c s = .next t) : t.Inv := by
  cases hd : decode c with
  | error e =>
    cases (hostIssue_of_decode_error c e s hd).symm.trans h
    exact respond_inv _ s (Response.inv_of_illegal _ _ (Nat.le_of_lt_succ (lenField c).isLt)) hwf
  | ok i =>
    cases (hostIssue_of_decode_ok c i s hd).symm.trans h
    obtain ⟨hlen, -⟩ := (decode_eq_ok_iff_toNat c i).mp hd
    by_cases hv : fwv (instrOp i) i.len = true
    · rw [command_of_fwv _ _ _ _ hv]
      exact respond_inv _ _ (Response.inv_of_fwv i _ hlen (operand_length s i.len) hv) hwf
    · rw [command_of_not_fwv _ _ _ _ hv]
      exact respond_inv _ s (Response.inv_of_not_fwv _ _ hlen hv) hwf

/-- The invariants are about the response registers and IBUF's form alone. -/
theorem State.Inv.congr (s t : State) (hs : s.Inv) (hsame : SameResponse s t) (hwf : t.ibuf.wf = true) : t.Inv := by
  obtain ⟨hstatus, herrinfo, hvalue, htext⟩ := hsame
  cases s
  cases t
  cases hstatus
  cases herrinfo
  cases hvalue
  cases htext
  exact { hs with ibufWf := hwf }

/-- Zero registers, empty TEXT and a canonical IBUF: the state before the first command (10_state.md R41). -/
theorem inv_of_zero_response (s : State) (hvalue : s.value = 0) (hstatus : s.status = 0) (herrinfo : s.errinfo = 0)
    (htext : s.text = []) (hwf : s.ibuf.wf = true) : s.Inv := by
  obtain ⟨hdone, hkind, hfn, holen⟩ := fields_of_status_zero s hstatus
  have hkindNe : ∀ k : BitVec 2, k ≠ 0 → s.kind ≠ k := fun k hk h => hk (h.symm.trans hkind)
  have hfnNe : ∀ fn : BitVec 3, fn ≠ 0 → s.fn ≠ fn := fun fn h0 h => h0 (h.symm.trans hfn)
  exact
    { reserved := by rw [hstatus, herrinfo]; decide
      beforeFirst := fun _ => ⟨hvalue, hstatus, herrinfo, htext⟩
      errorIsZero := fun h => absurd hkind h
      invalidLength := fun h => absurd h (hkindNe 1 (by decide))
      emptyInput := fun h => absurd h (hkindNe 2 (by decide))
      illegalCommand := fun h => absurd h (hkindNe 3 (by decide))
      success := fun h => absurd (hdone.symm.trans h) (by decide)
      outputs := ⟨fun _ => holen, fun _ => hvalue⟩
      fixedWidth := ⟨fun h => absurd h (hfnNe 3 (by decide)), fun h => absurd h (hfnNe 4 (by decide))⟩
      textBytes := ⟨holen.trans_le (Nat.zero_le _), htext ▸ nofun⟩
      textLength := by rw [holen, htext]; rfl
      ibufWf := hwf }

/-- Every host action keeps the invariants: commands and reset establish them, and the others touch no response. -/
theorem perform_inv (a : HostAction) (s t : State) (hs : s.Inv) (h : perform a s = .next t) : t.Inv := by
  rcases perform_cases a s t h with ⟨i, b, -, rfl⟩ | ⟨c, -, hc⟩ | ⟨r, -, rfl⟩ | ⟨i, -, rfl⟩ | ⟨-, rfl⟩
  · exact hs.congr s _ ⟨rfl, rfl, rfl, rfl⟩ (Memory.write_wf s.ibuf i b hs.ibufWf)
  · exact hostIssue_inv c s t hs.ibufWf hc
  · exact hs.congr s _ ⟨rfl, rfl, rfl, rfl⟩ hs.ibufWf
  · exact hs.congr s _ ⟨rfl, rfl, rfl, rfl⟩ hs.ibufWf
  · exact inv_of_zero_response _ (hostReset_value s) (hostReset_status s) (hostReset_errinfo s) (hostReset_text s)
      Memory.wf_nil

theorem reset_inv (acts : List HostAction) : ({ State.reset with pending := acts } : State).Inv :=
  inv_of_zero_response _ rfl rfl rfl rfl Memory.wf_nil

/-! ### The statements -/

/-- Settles O36: the registers of the reset state are zero. -/
theorem resetMeetsTheInvariants : Obligations.ResetMeetsTheInvariants := by
  unfold Obligations.ResetMeetsTheInvariants
  exact reset_inv

/-- Settles O37: a step is idle or one host action, which keeps the invariants; taking the action off the queue
touches neither the response nor IBUF. -/
theorem stepKeepsTheInvariants : Obligations.StepKeepsTheInvariants := by
  unfold Obligations.StepKeepsTheInvariants
  intro s t hs h
  rcases step_cases s t h with ⟨-, rfl⟩ | ⟨a, rest, -, ha⟩
  · exact hs
  · exact perform_inv a { s with pending := rest } t (hs.congr s _ ⟨rfl, rfl, rfl, rfl⟩ hs.ibufWf) ha

/-- Settles O38, by induction on how the state was reached. -/
theorem reachableStatesMeetTheInvariants : Obligations.ReachableStatesMeetTheInvariants := by
  unfold Obligations.ReachableStatesMeetTheInvariants
  intro s hs
  induction hs with
  | reset => exact reset_inv []
  | act a s t _ hperform ih => exact perform_inv a s t ih hperform

end Sys2Proof.Machine

/-! PROOFS. The statements about steps and the queue (00_scope.md, 20_memory.md R62, 70_reset_and_hazards.md R173), and
what reaches a response through them. -/

namespace Sys2Proof.Machine

/-! ### One step and one host action -/

theorem step_of_pending_nil (s : State) (h : s.pending = []) : step s = .next s := by
  rw [step, h]

theorem step_of_pending_cons (s : State) (a : HostAction) (rest : List HostAction) (h : s.pending = a :: rest) :
    step s = perform a { s with pending := rest } := by
  rw [step, h]

/-- Every host action completes (40_datapath_units.md R101, 20_memory.md R52). -/
theorem perform_next (a : HostAction) (s : State) : ∃ t, perform a s = .next t := by
  cases a with
  | issue c =>
    obtain ⟨r, d, h, -⟩ := hostIssue_responds c s
    exact ⟨_, h⟩
  | _ => exact ⟨_, rfl⟩

theorem perform_pending (a : HostAction) (s t : State) (h : perform a s = .next t) : t.pending = s.pending := by
  rcases perform_cases a s t h with ⟨i, b, -, rfl⟩ | ⟨c, -, hc⟩ | ⟨r, -, rfl⟩ | ⟨i, -, rfl⟩ | ⟨-, rfl⟩
  · exact hostWriteIbuf_pending i b s
  · obtain ⟨-, hpending, -⟩ := hostIssue_sameOutside c s t hc
    exact hpending
  · exact hostReadReg_pending r s
  · exact hostReadObuf_pending i s
  · exact hostReset_pending s

/-- An action that is neither a command nor a reset writes no response register (10_state.md R39). -/
theorem perform_sameResponse (a : HostAction) (s t : State) (hissue : ∀ c, a ≠ .issue c) (hreset : a ≠ .reset)
    (h : perform a s = .next t) : SameResponse s t := by
  rcases perform_cases a s t h with ⟨i, b, -, rfl⟩ | ⟨c, rfl, -⟩ | ⟨r, -, rfl⟩ | ⟨i, -, rfl⟩ | ⟨rfl, -⟩
  · exact ⟨rfl, rfl, rfl, rfl⟩
  · exact absurd rfl (hissue c)
  · exact ⟨rfl, rfl, rfl, rfl⟩
  · exact ⟨rfl, rfl, rfl, rfl⟩
  · exact absurd rfl hreset

theorem SameResponse.trans {s t u : State} (h : SameResponse s t) (h' : SameResponse t u) : SameResponse s u := by
  obtain ⟨hstatus, herrinfo, hvalue, htext⟩ := h
  obtain ⟨hstatus', herrinfo', hvalue', htext'⟩ := h'
  exact ⟨hstatus.trans hstatus', herrinfo.trans herrinfo', hvalue.trans hvalue', htext.trans htext'⟩

/-! ### Runs over the queue -/

/-- A run over a queue performs its head and goes on from there. -/
theorem run_cons (a : HostAction) (rest : List HostAction) (s t : State) (k : Nat)
    (h : perform a { s with pending := rest } = .next t) :
    Sys2Proof.core.run (k + 1) ({ s with pending := a :: rest } : State) = Sys2Proof.core.run k t :=
  run_next k _ t ((step_of_pending_cons _ a rest rfl).trans h)

theorem run_idle (s : State) (k : Nat) (h : s.pending = []) : Sys2Proof.core.run k s = .next s := by
  induction k with
  | zero => rfl
  | succ k ih => exact (run_next k s s (step_of_pending_nil s h)).trans ih

theorem State.with_pending_eq (s : State) (l : List HostAction) (h : s.pending = l) : { s with pending := l } = s := by
  rw [← h]

/-- A run over actions none of which is a command or a reset, by induction on the actions. -/
theorem run_sameResponse (acts rest : List HostAction) (s t : State)
    (hacts : ∀ a ∈ acts, (∀ c, a ≠ .issue c) ∧ a ≠ .reset)
    (h : Sys2Proof.core.run acts.length ({ s with pending := acts ++ rest } : State) = .next t) :
    SameResponse s t ∧ t.pending = rest := by
  induction acts generalizing s with
  | nil =>
    cases h
    exact ⟨⟨rfl, rfl, rfl, rfl⟩, rfl⟩
  | cons a acts ih =>
    obtain ⟨⟨hissue, hreset⟩, hrest⟩ := List.forall_mem_cons.mp hacts
    obtain ⟨u, hu⟩ := perform_next a { s with pending := acts ++ rest }
    have hrun := (run_cons a (acts ++ rest) s u acts.length hu).symm.trans h
    rw [← u.with_pending_eq _ (perform_pending a _ u hu)] at hrun
    obtain ⟨hsame, hpending⟩ := ih u hrest hrun
    exact ⟨(perform_sameResponse a { s with pending := acts ++ rest } u hissue hreset hu).trans hsame, hpending⟩

/-! ### The operand -/

/-- A written operand has its bytes from IBUF alone, whatever the count of draws. -/
theorem operand_with_draws (s : State) (n d : Nat) (h : OperandWritten s n) :
    operand { s with draws := d } n = operand s n := by
  refine operand_congr _ _ n fun i hi => ?_
  obtain ⟨b, hb⟩ := Option.isSome_iff_exists.mp (h i hi)
  rw [operandByte_written s i b hb, operandByte_written { s with draws := d } i b hb]

/-- A command that ends in an error has read nothing, so it drew nothing (93_implementation_defined.md U2). -/
theorem hostIssue_draws_of_error (c : Command) (s t : State) (ht : hostIssue c s = .next t) (h : wordKind c ≠ 0) :
    t.draws = s.draws := by
  obtain ⟨k, fn, -, -, hraise⟩ := hostIssue_raises c h
  cases (hraise s).symm.trans ht
  exact raiseError_draws ..

/-! ### The statements -/

/-- Settles O7: a run's first step is the head of the queue, which no action touches, and idle steps add up to
nothing. -/
theorem queuedActionsHappenInOrder : Obligations.QueuedActionsHappenInOrder := by
  unfold Obligations.QueuedActionsHappenInOrder
  exact ⟨fun a rest s t k h => ⟨run_cons a rest s t k h, perform_pending a _ t h⟩, run_idle⟩

/-- Settles O8: a command always writes one response, and a step is idle or one host action. -/
theorem everyCommandAndStepCompletes : Obligations.EveryCommandAndStepCompletes := by
  unfold Obligations.EveryCommandAndStepCompletes
  constructor
  · intro c s
    obtain ⟨r, d, ht, -⟩ := hostIssue_responds c s
    exact ⟨_, ht, hostIssue_done c s _ ht, fun u hu => Host.Outcome.next.inj (hu.symm.trans ht)⟩
  · intro s
    cases hp : s.pending with
    | nil => exact ⟨s, step_of_pending_nil s hp⟩
    | cons a rest =>
      obtain ⟨t, ht⟩ := perform_next a { s with pending := rest }
      exact ⟨t, (step_of_pending_cons s a rest hp).trans ht⟩

/-- Settles O6: the step performs the head of the queue, and issuing a word is what its decoding says. -/
theorem stepRunsTheDecodedCommand : Obligations.StepRunsTheDecodedCommand := by
  unfold Obligations.StepRunsTheDecodedCommand
  intro s c rest hp
  have hstep : step s = hostIssue c { s with pending := rest } := step_of_pending_cons s _ rest hp
  refine ⟨fun i hi => ?_, fun e he => ?_⟩
  · rw [hstep, hostIssue_of_decode_ok c i _ hi, exec_eq_command]
  · rw [hstep, hostIssue_of_decode_error c e _ he, illegalCommand]

/-- Settles O33, from the run over harmless actions. -/
theorem onlyCommandsAndResetChangeTheResponse : Obligations.OnlyCommandsAndResetChangeTheResponse := by
  unfold Obligations.OnlyCommandsAndResetChangeTheResponse
  exact run_sameResponse

/-- Settles O25: an error is its word's, the same from every state, and raised before any read. -/
theorem failingCommandsReadNoOperand : Obligations.FailingCommandsReadNoOperand := by
  unfold Obligations.FailingCommandsReadNoOperand
  intro c s t m d ht hk
  rw [hostIssue_kind c s t ht] at hk
  exact ⟨hostIssue_draws_of_error c s t ht hk, hostIssue_sameResponse_of_error c s t _ ht hk⟩

/-- Settles O26: a command's response uses the state through its operand alone, and a written operand uses no draw. -/
theorem writtenOperandFixesTheResponse : Obligations.WrittenOperandFixesTheResponse := by
  unfold Obligations.WrittenOperandFixesTheResponse
  intro c s t d hwritten ht
  obtain ⟨r, d', ht', -⟩ := hostIssue_responds c { s with draws := d }
  exact ⟨_, ht', hostIssue_sameResponse c s _ t _ (operand_with_draws s _ d hwritten).symm ht ht'⟩

/-- Settles O16: byte `i` of the operand is read from entry `i`, which holds a written byte. -/
theorem operandIsTheWrittenBytes : Obligations.OperandIsTheWrittenBytes := by
  unfold Obligations.OperandIsTheWrittenBytes
  intro s n hwritten
  refine ⟨operand_length s n, fun i hi => ?_⟩
  obtain ⟨b, hb⟩ := Option.isSome_iff_exists.mp (hwritten i hi)
  rw [operand_getElem? s n i hi, operandByte_written s i b hb, hb]

end Sys2Proof.Machine

/-! PROOFS. The statements about IBUF, the host's reads and reset: writes to IBUF (20_memory.md R62,
70_reset_and_hazards.md R163), the reads (10_state.md R37, R39), and IBUF after reset (R161). -/

namespace Sys2Proof.Machine

/-! ### Two writes to IBUF -/

/-- A second write to an entry replaces the first. -/
theorem Memory.write_write_same (m : Memory) (i : Nat) (b b' : Byte) : (m.write i b).write i b' = m.write i b' := by
  induction m with
  | nil => simp [Memory.write]
  | cons c m ih =>
    obtain ⟨a, x⟩ := c
    rcases lt_trichotomy i a with h | rfl | h
    · simp [Memory.write, h]
    · simp [Memory.write]
    · simp [Memory.write, h.not_gt, h.ne', ih]

/-- Writes to two entries commute: each looks no further than its own place in the list. -/
theorem Memory.write_comm_of_lt (m : Memory) (i j : Nat) (b b' : Byte) (h : i < j) :
    (m.write i b).write j b' = (m.write j b').write i b := by
  induction m with
  | nil => simp [Memory.write, h, h.not_gt, h.ne']
  | cons c m ih =>
    obtain ⟨a, x⟩ := c
    rcases lt_trichotomy j a with hj | rfl | hj
    · simp [Memory.write, h, h.not_gt, h.ne', hj, h.trans hj]
    · simp [Memory.write, h, h.not_gt, h.ne']
    · rcases lt_trichotomy i a with hi | rfl | hi
      · simp [Memory.write, h.not_gt, h.ne', hi, hj.not_gt, hj.ne']
      · simp [Memory.write, h.not_gt, h.ne']
      · simp [Memory.write, hi.not_gt, hi.ne', hj.not_gt, hj.ne', ih]

theorem Memory.write_comm (m : Memory) (i j : Nat) (b b' : Byte) (h : i ≠ j) :
    (m.write i b).write j b' = (m.write j b').write i b := by
  rcases h.lt_or_gt with hlt | hgt
  · exact m.write_comm_of_lt i j b b' hlt
  · exact (m.write_comm_of_lt j i b' b hgt).symm

/-! ### The statements -/

/-- Settles O29: a host write is a write to the sorted list, where the last write to an entry stands and two entries
have places of their own. -/
theorem laterWriteWinsAndOthersCommute : Obligations.LaterWriteWinsAndOthersCommute := by
  unfold Obligations.LaterWriteWinsAndOthersCommute
  refine ⟨fun i b b' s => ?_, fun i j b b' s _ hne => ?_⟩
  · simp only [hostWriteIbuf, Memory.write_write_same]
  · simp only [hostWriteIbuf, s.ibuf.write_comm i.toNat j.toNat b b' fun h => hne (BitVec.eq_of_toNat_eq h)]

/-- Settles O31: a read appends the register it names to the list of reads. -/
theorem registerReadsReturnTheWholeRegister : Obligations.RegisterReadsReturnTheWholeRegister := by
  unfold Obligations.RegisterReadsReturnTheWholeRegister
  exact fun s => ⟨rfl, rfl, rfl⟩

/-- Settles O32: the port's byte is TEXT's below OLEN, where TEXT has one since it has OLEN bytes. -/
theorem textReadsAreMaskedByOlen : Obligations.TextReadsAreMaskedByOlen := by
  unfold Obligations.TextReadsAreMaskedByOlen
  intro s i hs
  refine ⟨obufByte s i.toNat, rfl, fun hlt => ?_, fun hge => if_neg (not_lt.mpr hge)⟩
  have hbound : i.toNat < s.text.length := hlt.trans_eq hs.textLength.symm
  rw [obufByte, if_pos hlt, List.getD_eq_getElem _ _ hbound, List.getElem?_eq_getElem hbound]

/-- Settles O35: IBUF lists nothing at reset and after one. -/
theorem resetLeavesIbufUnwritten : Obligations.ResetLeavesIbufUnwritten := by
  unfold Obligations.ResetLeavesIbufUnwritten
  exact ⟨Memory.read_nil, fun s => ⟨hostReset s, rfl, Memory.read_nil, hostReset_pending s, hostReset_reads s,
    hostReset_draws s⟩⟩

end Sys2Proof.Machine

/-! PROOFS. The statements about the document's function call: LOAD, and LOAD followed by the command (00_scope.md R2,
30_encoding.md R80). -/

namespace Sys2Proof.Machine

/-! ### LOAD -/

/-- IBUF after bytes are written from an index upward; `run_loadFrom` ties it to the host's actions. -/
def Memory.load (m : Memory) : Nat → List Byte → Memory
  | _, [] => m
  | i, b :: bs => Memory.load (m.write i b) (i + 1) bs

/-- LOAD leaves the entries below and above its own as they were. -/
theorem Memory.read_load_outside (m : Memory) (i : Nat) (bs : List Byte) (k : Nat) (h : k < i ∨ i + bs.length ≤ k) :
    (m.load i bs).read k = m.read k := by
  induction bs generalizing m i with
  | nil => rfl
  | cons b bs ih =>
    rw [List.length_cons] at h
    rw [Memory.load, ih _ (i + 1) (by omega), Memory.read_write_other m i k b (by omega)]

/-- Each loaded byte stands at its place: later bytes go to other entries. -/
theorem Memory.read_load_inside (m : Memory) (i : Nat) (bs : List Byte) (k : Nat) (h : k < bs.length) :
    (m.load i bs).read (i + k) = some bs[k] := by
  induction bs generalizing m i k with
  | nil => exact absurd h (Nat.not_lt_zero k)
  | cons b bs ih =>
    rw [Memory.load]
    cases k with
    | zero =>
      rw [Memory.read_load_outside _ _ _ _ (.inl (by omega)), Nat.add_zero, Memory.read_write_same,
        List.getElem_cons_zero]
    | succ k =>
      rw [show i + (k + 1) = i + 1 + k by omega, ih _ _ k (Nat.lt_of_succ_lt_succ h), List.getElem_cons_succ]

/-- A run over LOAD's writes and then `k` more steps, by induction on the bytes; no index leaves 16 bits. -/
theorem run_loadFrom (bs : List Byte) (i k : Nat) (s : State) (rest : List HostAction)
    (h : i + bs.length ≤ Config.ibufSize) :
    Sys2Proof.core.run (bs.length + k) ({ s with pending := loadFrom i bs ++ rest } : State) =
      Sys2Proof.core.run k ({ s with ibuf := s.ibuf.load i bs, pending := rest } : State) := by
  induction bs generalizing i s with
  | nil => rw [List.length_nil, Nat.zero_add]; rfl
  | cons b bs ih =>
    rw [List.length_cons] at h ⊢
    have hindex : (BitVec.ofNat 16 i).toNat = i := by
      simp only [Config.ibufSize] at h
      rw [BitVec.toNat_ofNat, Nat.mod_eq_of_lt (by omega)]
    have hwrite : perform (.writeIbuf (BitVec.ofNat 16 i) b) { s with pending := loadFrom (i + 1) bs ++ rest } =
        .next { s with ibuf := s.ibuf.write i b, pending := loadFrom (i + 1) bs ++ rest } := by
      simp only [perform, hostWriteIbuf, hindex]
    rw [Nat.add_right_comm]
    exact (run_cons _ _ s _ _ hwrite).trans (ih (i + 1) { s with ibuf := s.ibuf.write i b } (by omega))

/-- The operand over a loaded slice is the slice, whatever IBUF held. -/
theorem operand_of_load (s : State) (m : Memory) (bs : List Byte) (h : s.ibuf = m.load 0 bs) :
    operand s bs.length = bs := by
  refine List.ext_getElem (operand_length s bs.length) fun k _ hk => ?_
  have hread := m.read_load_inside 0 bs k hk
  rw [Nat.zero_add, ← h] at hread
  rw [operand_getElem s bs.length k hk, operandByte_written s k _ hread]

/-! ### The command after it -/

theorem instrOp_instr (op : Op) (n : Nat) : instrOp (op.instr n) = op := by
  cases op <;> rfl

theorem len_instr (op : Op) (n : Nat) : (op.instr n).len = n := by
  cases op <;> rfl

/-- A slice of a legal length: the document's function answers no error and what the instruction computes. -/
theorem documentResult_of_fwv (op : Op) (bs : List Byte) (hv : fwv op bs.length = true) :
    documentResult op bs = (0, instrFinish (op.instr bs.length) bs) := by
  obtain ⟨hlo, hhi⟩ := (fwv_iff op bs.length).mp hv
  cases op with
  | ds64 => exact (if_pos ⟨hlo, hhi⟩).trans (by rw [← ds64Value_eq_signExtend bs hlo hhi]; rfl)
  | du64 => exact (if_pos ⟨hlo, hhi⟩).trans (by rw [← du64Value_eq_ofNat bs hhi]; rfl)
  | du16 =>
    have h2 := (fwv_du16_iff bs.length).mp hv
    exact (if_pos h2).trans (by rw [← led16_setWidth_eq_ofNat bs h2]; rfl)
  | du32 =>
    have h4 := (fwv_du32_iff bs.length).mp hv
    exact (if_pos h4).trans (by rw [← led32_setWidth_eq_ofNat bs h4]; rfl)
  | dtxt => exact (if_neg (Nat.pos_iff_ne_zero.mp hlo)).trans (by rw [← strip0_eq_filter]; rfl)

/-- A slice of any other length: the document's function answers the operation's one error. -/
theorem documentResult_of_not_fwv (op : Op) (bs : List Byte) (hlen : bs.length ≤ 65535)
    (hv : ¬ fwv op bs.length = true) : documentResult op bs = (op.lengthRule.kind.code.toNat, 0, []) := by
  cases op with
  | ds64 => exact if_neg (mt (fwv_iff .ds64 bs.length).mpr hv)
  | du64 => exact if_neg (mt (fwv_iff .du64 bs.length).mpr hv)
  | du16 => exact if_neg (mt (fwv_du16_iff bs.length).mpr hv)
  | du32 => exact if_neg (mt (fwv_du32_iff bs.length).mpr hv)
  | dtxt =>
    rw [fwv_dtxt_iff bs.length hlen] at hv
    exact if_pos (by omega)

/-- The command of an operation and a length: from a state whose operand is the slice it leaves the document's
result. -/
theorem perform_call (op : Op) (bs : List Byte) (s : State) (hlen : bs.length ≤ 65535)
    (hop : operand s bs.length = bs) :
    ∃ t, perform (.issue (encode (op.instr bs.length))) s = .next t ∧
      HoldsResponse t (documentResult op bs).1 op.code.toNat bs.length (legalRange op.code.toNat).1
        (legalRange op.code.toNat).2 (documentResult op bs).2.1 (documentResult op bs).2.2 ∧
      SameOutside s t := by
  have hinstr := instrOp_instr op bs.length
  have hilen := len_instr op bs.length
  have hwf : (op.instr bs.length).WellFormed := hilen.trans_le hlen
  have hissue : perform (.issue (encode (op.instr bs.length))) s = exec (op.instr bs.length) s := by
    rw [perform, hostIssue_of_decode_ok _ _ s (decode_encode _ hwf), exec_eq_command]
  rw [hissue, ← lengthRule_eq_legalRange]
  by_cases hv : fwv op bs.length = true
  · have hexec := exec_holds_of_fwv (op.instr bs.length) s hwf
    rw [hinstr, hilen, hop] at hexec
    rw [documentResult_of_fwv op bs hv]
    exact hexec hv
  · have hexec := exec_holds_of_not_fwv (op.instr bs.length) s hwf
    rw [hinstr, hilen] at hexec
    rw [documentResult_of_not_fwv op bs hlen hv]
    exact hexec hv

/-! ### The statements -/

/-- Settles O50: LOAD's writes put each byte at its index and touch nothing else. -/
theorem loadedBytesAreTheOperand : Obligations.LoadedBytesAreTheOperand := by
  unfold Obligations.LoadedBytesAreTheOperand
  intro bs s rest hlen
  refine ⟨{ s with ibuf := s.ibuf.load 0 bs, pending := rest }, ?_, operand_of_load _ s.ibuf bs rfl, fun k hk => ?_,
    ⟨rfl, rfl, rfl, rfl⟩, rfl, rfl⟩
  · exact run_loadFrom bs 0 0 s rest (by simp only [Config.ibufSize]; omega)
  · exact s.ibuf.read_load_outside 0 bs k (.inr (by omega))

/-- Settles O51: after LOAD the operand is the slice, and the command over it computes the document's function. -/
theorem callsComputeTheDocumentsFunctions : Obligations.CallsComputeTheDocumentsFunctions := by
  unfold Obligations.CallsComputeTheDocumentsFunctions
  intro op bs s rest hlen
  obtain ⟨t, ht, hholds, -, hpending, hreads⟩ :=
    perform_call op bs { s with ibuf := s.ibuf.load 0 bs, pending := rest } hlen (operand_of_load _ s.ibuf bs rfl)
  refine ⟨t, ?_, hholds, hpending, hreads⟩
  rw [callActions, List.append_assoc, List.singleton_append,
    run_loadFrom bs 0 1 s _ (by simp only [Config.ibufSize]; omega)]
  exact run_cons _ rest { s with ibuf := s.ibuf.load 0 bs } t 0 ht

end Sys2Proof.Machine
